-- ==== Sys2Proof/Word.lean ====
section
/-! DEFINITION. The word types of the hardware (00_scope.md R4, R6): every quantity is unsigned. -/

namespace Sys2Proof

/-- A byte register, a memory byte, the immediate `kk` (R4 `REG_W`, R61). -/
abbrev Byte := BitVec 8

/-- An instruction word, `I`, `PC`, a call-stack entry (R4 `INSTR_W`, `I_W`, `PC_W`, `STACK_ENTRY_W`). -/
abbrev Word := BitVec 16

/-- A register index `x`, `y` or the immediate nibble `n` (R61). -/
abbrev Nibble := BitVec 4

/-- The absolute address literal `nnn` (R61). -/
abbrev Addr12 := BitVec 12

end Sys2Proof
end

