-- ==== Sys2Proof/Config.lean ====
section
/-! DEFINITION. The implementation parameters of 00_scope.md R4 and the free values. A parameter whose
value the spec fixes or defaults is a definition; an OPEN parameter and a draw are constants with no body,
so that nothing can be proved about their value beyond what their type says. -/

namespace Sys2Proof.Config

/-- `MEM_SIZE` (R4, R26): bytes of memory. DESIGN CHOICE of the spec (decision D3), log entry 7. -/
abbrev memSize : Nat := 4096

/-- `ENTRY` (R4, R177): the reset value of `PC` and the load base. Decision D5, log entry 7. -/
abbrev entry : Nat := 0x200

/-- `DISP_W` (R4, R28): display columns. Decision D4, log entry 7. -/
abbrev dispW : Nat := 64

/-- `DISP_H` (R4, R28): display rows. Decision D4, log entry 7. -/
abbrev dispH : Nat := 32

/-- `STACK_DEPTH` (R4, R24): call-stack entries, fixed by the source. -/
abbrev stackDepth : Nat := 16

/-- `NREG` (R4, R14): byte registers, fixed by the source. -/
abbrev nReg : Nat := 16

/-- `NKEYS` (R4, R31): keys of the key-state provider. Decision D20, log entry 7. -/
abbrev nKeys : Nat := 16

/-- `TIMER_HZ` (R4): named by the source as an example; no rule depends on it (R186). -/
abbrev timerHz : Nat := 60

/-- The two orders the bytes of a word could have in memory. -/
inductive ByteOrder where
  | bigEndian
  | littleEndian
  deriving DecidableEq, Repr

/-- `BYTE_ORDER` of the instruction fetch (R4, R40). Decision D2, log entry 7. -/
def byteOrder : ByteOrder := .bigEndian

/-- The two orders in which a flag-writing instruction could write its result and its flag. -/
inductive WriteOrder where
  | flagLast
  | resultLast
  deriving DecidableEq, Repr

/-- `VF_WRITE_ORDER` (R4, R17, R101). Decision D7, log entry 7. -/
def vfWriteOrder : WriteOrder := .flagLast

/-- `LOADSTORE_INCREMENTS_I` (R4, R135, R136). Decision D14, log entry 7. -/
def loadStoreIncrementsI : Bool := false

/-- `FONT_BASE` (R4, R132): OPEN. Its type carries the one constraint the spec sets,
`FONT_BASE + 80 <= ENTRY`. Log entry 6. -/
opaque fontBase : Fin (entry - 80 + 1)

/-- `FONT_PRELOADED` (R4, R38): OPEN. Log entry 4. -/
opaque fontPreloaded : Bool

/-- `FontAddrHigh` (R132): what `LD F, Vx` gives for a register value above 15; it depends on that value
alone and nothing else is known of it. Log entry 6. -/
opaque fontAddrHigh : Byte → Word

/-- The free byte of the `n`-th draw from the random-byte source (R33). Log entry 3. -/
opaque freeByte : Nat → Byte

/-- The free answer of the `n`-th draw for a key number above 15 (R31). Log entry 3. -/
opaque freeKey : Nat → Bool

/-- The free choice of the `n`-th draw among several keys that are down (R144). Log entry 3. -/
opaque freeChoice : Nat → Nat

end Sys2Proof.Config
end

