-- ==== Sys2Proof/Syntax.lean ====
section
/-! DEFINITION. The instructions: one constructor per row of spec/opcode_table.json (30_encoding.md R65),
its fields those of R61. `SHR` and `SHL` carry the `y` field they ignore (R68), so that no bit of a word is
lost by decoding. -/

namespace Sys2Proof

/-- The 34 instructions of R65. Field types are exactly the field widths of R61, so no term is ill formed. -/
inductive Instr where
  | cls
  | ret
  | jpNnn (nnn : Addr12)
  | callNnn (nnn : Addr12)
  | seVxKk (x : Nibble) (kk : Byte)
  | sneVxKk (x : Nibble) (kk : Byte)
  | seVxVy (x y : Nibble)
  | ldVxKk (x : Nibble) (kk : Byte)
  | addVxKk (x : Nibble) (kk : Byte)
  | ldVxVy (x y : Nibble)
  | orVxVy (x y : Nibble)
  | andVxVy (x y : Nibble)
  | xorVxVy (x y : Nibble)
  | addVxVy (x y : Nibble)
  | subVxVy (x y : Nibble)
  | shrVx (x y : Nibble)
  | subnVxVy (x y : Nibble)
  | shlVx (x y : Nibble)
  | sneVxVy (x y : Nibble)
  | ldINnn (nnn : Addr12)
  | jpV0Nnn (nnn : Addr12)
  | rndVxKk (x : Nibble) (kk : Byte)
  | drwVxVyN (x y n : Nibble)
  | skpVx (x : Nibble)
  | sknpVx (x : Nibble)
  | ldVxDt (x : Nibble)
  | ldVxKey (x : Nibble)
  | ldDtVx (x : Nibble)
  | ldStVx (x : Nibble)
  | addIVx (x : Nibble)
  | ldFVx (x : Nibble)
  | ldBVx (x : Nibble)
  | ldMemVx (x : Nibble)
  | ldVxMem (x : Nibble)
  deriving DecidableEq, Repr

/-- The mnemonic of an instruction as spec/opcode_table.json spells it. -/
def Instr.mnemonic : Instr → String
  | .cls => "CLS"
  | .ret => "RET"
  | .jpNnn _ => "JP_nnn"
  | .callNnn _ => "CALL_nnn"
  | .seVxKk _ _ => "SE_Vx__kk"
  | .sneVxKk _ _ => "SNE_Vx__kk"
  | .seVxVy _ _ => "SE_Vx__Vy"
  | .ldVxKk _ _ => "LD_Vx__kk"
  | .addVxKk _ _ => "ADD_Vx__kk"
  | .ldVxVy _ _ => "LD_Vx__Vy"
  | .orVxVy _ _ => "OR_Vx__Vy"
  | .andVxVy _ _ => "AND_Vx__Vy"
  | .xorVxVy _ _ => "XOR_Vx__Vy"
  | .addVxVy _ _ => "ADD_Vx__Vy"
  | .subVxVy _ _ => "SUB_Vx__Vy"
  | .shrVx _ _ => "SHR_Vx"
  | .subnVxVy _ _ => "SUBN_Vx__Vy"
  | .shlVx _ _ => "SHL_Vx"
  | .sneVxVy _ _ => "SNE_Vx__Vy"
  | .ldINnn _ => "LD_I__nnn"
  | .jpV0Nnn _ => "JP_V0__nnn"
  | .rndVxKk _ _ => "RND_Vx__kk"
  | .drwVxVyN _ _ _ => "DRW_Vx__Vy__n"
  | .skpVx _ => "SKP_Vx"
  | .sknpVx _ => "SKNP_Vx"
  | .ldVxDt _ => "LD_Vx__DT"
  | .ldVxKey _ => "LD_Vx__K"
  | .ldDtVx _ => "LD_DT__Vx"
  | .ldStVx _ => "LD_ST__Vx"
  | .addIVx _ => "ADD_I__Vx"
  | .ldFVx _ => "LD_F__Vx"
  | .ldBVx _ => "LD_B__Vx"
  | .ldMemVx _ => "LD__I___Vx"
  | .ldVxMem _ => "LD_Vx___I"

end Sys2Proof
end

