-- ==== Sys2Proof/WellFormed.lean ====
section
/-! DEFINITION. What is well formed from outside the type system. Every term of `Instr` is well formed,
because its field types are the field widths (R61, R63); what can be ill formed is an instruction WORD (a
word outside the opcode map of R65) and a program IMAGE (longer than R178 allows). -/

namespace Sys2Proof

/-- One row of the opcode map: a word is this instruction iff `(w & mask) == pattern` (R65). -/
structure OpRow where
  mnemonic : String
  pattern : Word
  mask : Word
  deriving DecidableEq, Repr

/-- The rows of R65 whose class the top nibble alone, or the whole word, selects. -/
def opcodeMapByClass : List OpRow :=
  [ ⟨"CLS", 0x00E0, 0xFFFF⟩, ⟨"RET", 0x00EE, 0xFFFF⟩, ⟨"JP_nnn", 0x1000, 0xF000⟩,
    ⟨"CALL_nnn", 0x2000, 0xF000⟩, ⟨"SE_Vx__kk", 0x3000, 0xF000⟩, ⟨"SNE_Vx__kk", 0x4000, 0xF000⟩,
    ⟨"LD_Vx__kk", 0x6000, 0xF000⟩, ⟨"ADD_Vx__kk", 0x7000, 0xF000⟩, ⟨"LD_I__nnn", 0xA000, 0xF000⟩,
    ⟨"JP_V0__nnn", 0xB000, 0xF000⟩, ⟨"RND_Vx__kk", 0xC000, 0xF000⟩, ⟨"DRW_Vx__Vy__n", 0xD000, 0xF000⟩ ]

/-- The rows of R65 that the bottom nibble selects within a class. -/
def opcodeMapByNibble : List OpRow :=
  [ ⟨"SE_Vx__Vy", 0x5000, 0xF00F⟩, ⟨"LD_Vx__Vy", 0x8000, 0xF00F⟩, ⟨"OR_Vx__Vy", 0x8001, 0xF00F⟩,
    ⟨"AND_Vx__Vy", 0x8002, 0xF00F⟩, ⟨"XOR_Vx__Vy", 0x8003, 0xF00F⟩, ⟨"ADD_Vx__Vy", 0x8004, 0xF00F⟩,
    ⟨"SUB_Vx__Vy", 0x8005, 0xF00F⟩, ⟨"SHR_Vx", 0x8006, 0xF00F⟩, ⟨"SUBN_Vx__Vy", 0x8007, 0xF00F⟩,
    ⟨"SHL_Vx", 0x800E, 0xF00F⟩, ⟨"SNE_Vx__Vy", 0x9000, 0xF00F⟩ ]

/-- The rows of R65 that the bottom byte selects within a class. -/
def opcodeMapByByte : List OpRow :=
  [ ⟨"SKP_Vx", 0xE09E, 0xF0FF⟩, ⟨"SKNP_Vx", 0xE0A1, 0xF0FF⟩, ⟨"LD_Vx__DT", 0xF007, 0xF0FF⟩,
    ⟨"LD_Vx__K", 0xF00A, 0xF0FF⟩, ⟨"LD_DT__Vx", 0xF015, 0xF0FF⟩, ⟨"LD_ST__Vx", 0xF018, 0xF0FF⟩,
    ⟨"ADD_I__Vx", 0xF01E, 0xF0FF⟩, ⟨"LD_F__Vx", 0xF029, 0xF0FF⟩, ⟨"LD_B__Vx", 0xF033, 0xF0FF⟩,
    ⟨"LD__I___Vx", 0xF055, 0xF0FF⟩, ⟨"LD_Vx___I", 0xF065, 0xF0FF⟩ ]

/-- The opcode map of R65, all 34 rows. -/
def opcodeMap : List OpRow := opcodeMapByClass ++ opcodeMapByNibble ++ opcodeMapByByte

/-- `w` is the instruction of row `r` (R65). -/
def OpRow.selects (r : OpRow) (w : Word) : Bool := (w &&& r.mask) == r.pattern

/-- A well-formed instruction word: some row of the opcode map selects it (R66). -/
def wordDefined (w : Word) : Bool := opcodeMap.any fun r => r.selects w

/-- The unknown words, class by class, as 30_encoding.md R67 lists them. -/
def wordUnknown (w : Word) : Bool :=
  let op := w.toNat / 0x1000
  let n := w.toNat % 0x10
  let kk := w.toNat % 0x100
  (op == 0 && w != 0x00E0 && w != 0x00EE)
    || (op == 5 && n != 0)
    || (op == 8 && [8, 9, 10, 11, 12, 13, 15].contains n)
    || (op == 9 && n != 0)
    || (op == 14 && !([0x9E, 0xA1].contains kk))
    || (op == 15 && !([0x07, 0x0A, 0x15, 0x18, 0x1E, 0x29, 0x33, 0x55, 0x65].contains kk))

/-- A program image the loader can place: `L <= MEM_SIZE - ENTRY` (R178). -/
def imageFits (image : List Byte) : Bool := decide (image.length ≤ Config.memSize - Config.entry)

end Sys2Proof
end

