-- ==== Sys2Proof/Decode.lean ====
section
/-! DEFINITION. Decoding (30_encoding.md R60 to R70), total on any bytes, and the encoder beside it.
No mode and no state changes how a word is decoded. -/

namespace Sys2Proof

/-- Why bytes are not an instruction. -/
inductive DecodeError where
  /-- Fewer than two bytes are left; every instruction is 2 bytes long (R60, R70). -/
  | truncated (count : Nat)
  /-- The word matches no row of the opcode map (R66, R67). -/
  | unknownOpcode (w : Word)
  deriving DecidableEq, Repr

/-- The word in two bytes of memory, the byte at the lower address first (R40). -/
def assembleWord (b0 b1 : Byte) : Word :=
  match Config.byteOrder with
  | .bigEndian => b0 ++ b1
  | .littleEndian => b1 ++ b0

/-- The two bytes of a word as memory holds them, the byte at the lower address first (R40). -/
def wordBytes (w : Word) : List Byte :=
  match Config.byteOrder with
  | .bigEndian => [w.extractLsb' 8 8, w.extractLsb' 0 8]
  | .littleEndian => [w.extractLsb' 0 8, w.extractLsb' 8 8]

/-- `op = w[15:12]` (R61). -/
def opField (w : Word) : Nibble := w.extractLsb' 12 4

/-- `x = w[11:8]` (R61). -/
def xField (w : Word) : Nibble := w.extractLsb' 8 4

/-- `y = w[7:4]` (R61). -/
def yField (w : Word) : Nibble := w.extractLsb' 4 4

/-- `n = w[3:0]` (R61). -/
def nField (w : Word) : Nibble := w.extractLsb' 0 4

/-- `kk = w[7:0]` (R61). -/
def kkField (w : Word) : Byte := w.extractLsb' 0 8

/-- `nnn = w[11:0]` (R61). -/
def nnnField (w : Word) : Addr12 := w.extractLsb' 0 12

/-- Class 0: the whole word must equal one of two constants (R64). -/
def decodeClass0 (w : Word) : Except DecodeError Instr :=
  if w = 0x00E0#16 then .ok .cls
  else if w = 0x00EE#16 then .ok .ret
  else .error (.unknownOpcode w)

/-- Class 8: the bottom nibble selects (R64, R65). -/
def decodeClass8 (w : Word) : Except DecodeError Instr :=
  match (nField w).toNat with
  | 0x0 => .ok (.ldVxVy (xField w) (yField w))
  | 0x1 => .ok (.orVxVy (xField w) (yField w))
  | 0x2 => .ok (.andVxVy (xField w) (yField w))
  | 0x3 => .ok (.xorVxVy (xField w) (yField w))
  | 0x4 => .ok (.addVxVy (xField w) (yField w))
  | 0x5 => .ok (.subVxVy (xField w) (yField w))
  | 0x6 => .ok (.shrVx (xField w) (yField w))
  | 0x7 => .ok (.subnVxVy (xField w) (yField w))
  | 0xE => .ok (.shlVx (xField w) (yField w))
  | _ => .error (.unknownOpcode w)

/-- Class E: the bottom byte selects (R64, R65). -/
def decodeClassE (w : Word) : Except DecodeError Instr :=
  match (kkField w).toNat with
  | 0x9E => .ok (.skpVx (xField w))
  | 0xA1 => .ok (.sknpVx (xField w))
  | _ => .error (.unknownOpcode w)

/-- Class F: the bottom byte selects (R64, R65). -/
def decodeClassF (w : Word) : Except DecodeError Instr :=
  match (kkField w).toNat with
  | 0x07 => .ok (.ldVxDt (xField w))
  | 0x0A => .ok (.ldVxKey (xField w))
  | 0x15 => .ok (.ldDtVx (xField w))
  | 0x18 => .ok (.ldStVx (xField w))
  | 0x1E => .ok (.addIVx (xField w))
  | 0x29 => .ok (.ldFVx (xField w))
  | 0x33 => .ok (.ldBVx (xField w))
  | 0x55 => .ok (.ldMemVx (xField w))
  | 0x65 => .ok (.ldVxMem (xField w))
  | _ => .error (.unknownOpcode w)

/-- The instruction a word is: the top nibble selects the class (R64). -/
def decodeWord (w : Word) : Except DecodeError Instr :=
  match (opField w).toNat with
  | 0x0 => decodeClass0 w
  | 0x1 => .ok (.jpNnn (nnnField w))
  | 0x2 => .ok (.callNnn (nnnField w))
  | 0x3 => .ok (.seVxKk (xField w) (kkField w))
  | 0x4 => .ok (.sneVxKk (xField w) (kkField w))
  | 0x5 => if nField w = 0#4 then .ok (.seVxVy (xField w) (yField w)) else .error (.unknownOpcode w)
  | 0x6 => .ok (.ldVxKk (xField w) (kkField w))
  | 0x7 => .ok (.addVxKk (xField w) (kkField w))
  | 0x8 => decodeClass8 w
  | 0x9 => if nField w = 0#4 then .ok (.sneVxVy (xField w) (yField w)) else .error (.unknownOpcode w)
  | 0xA => .ok (.ldINnn (nnnField w))
  | 0xB => .ok (.jpV0Nnn (nnnField w))
  | 0xC => .ok (.rndVxKk (xField w) (kkField w))
  | 0xD => .ok (.drwVxVyN (xField w) (yField w) (nField w))
  | 0xE => decodeClassE w
  | _ => decodeClassF w

/-- The first instruction of a byte string and the bytes after it (R60). -/
def decode : List Byte → Except DecodeError (Instr × List Byte)
  | b0 :: b1 :: rest =>
    match decodeWord (assembleWord b0 b1) with
    | .ok i => .ok (i, rest)
    | .error e => .error e
  | bs => .error (.truncated bs.length)

/-- Format A (R62): class, address. -/
def formatA (op : Nibble) (nnn : Addr12) : Word := op ++ nnn

/-- Format XK (R62): class, register, byte. -/
def formatXK (op x : Nibble) (kk : Byte) : Word := op ++ x ++ kk

/-- Format XY and XYN (R62): class, two registers, sub-opcode or count. -/
def formatXYN (op x y n : Nibble) : Word := op ++ x ++ y ++ n

/-- The word of an instruction, from the patterns of R65. -/
def encode : Instr → Word
  | .cls => 0x00E0#16
  | .ret => 0x00EE#16
  | .jpNnn nnn => formatA 0x1 nnn
  | .callNnn nnn => formatA 0x2 nnn
  | .seVxKk x kk => formatXK 0x3 x kk
  | .sneVxKk x kk => formatXK 0x4 x kk
  | .seVxVy x y => formatXYN 0x5 x y 0x0
  | .ldVxKk x kk => formatXK 0x6 x kk
  | .addVxKk x kk => formatXK 0x7 x kk
  | .ldVxVy x y => formatXYN 0x8 x y 0x0
  | .orVxVy x y => formatXYN 0x8 x y 0x1
  | .andVxVy x y => formatXYN 0x8 x y 0x2
  | .xorVxVy x y => formatXYN 0x8 x y 0x3
  | .addVxVy x y => formatXYN 0x8 x y 0x4
  | .subVxVy x y => formatXYN 0x8 x y 0x5
  | .shrVx x y => formatXYN 0x8 x y 0x6
  | .subnVxVy x y => formatXYN 0x8 x y 0x7
  | .shlVx x y => formatXYN 0x8 x y 0xE
  | .sneVxVy x y => formatXYN 0x9 x y 0x0
  | .ldINnn nnn => formatA 0xA nnn
  | .jpV0Nnn nnn => formatA 0xB nnn
  | .rndVxKk x kk => formatXK 0xC x kk
  | .drwVxVyN x y n => formatXYN 0xD x y n
  | .skpVx x => formatXK 0xE x 0x9E
  | .sknpVx x => formatXK 0xE x 0xA1
  | .ldVxDt x => formatXK 0xF x 0x07
  | .ldVxKey x => formatXK 0xF x 0x0A
  | .ldDtVx x => formatXK 0xF x 0x15
  | .ldStVx x => formatXK 0xF x 0x18
  | .addIVx x => formatXK 0xF x 0x1E
  | .ldFVx x => formatXK 0xF x 0x29
  | .ldBVx x => formatXK 0xF x 0x33
  | .ldMemVx x => formatXK 0xF x 0x55
  | .ldVxMem x => formatXK 0xF x 0x65

/-- The instruction the decoder reads from bits `w` numbered as spec/opcode_table.json numbers them. Every
instruction is one 16-bit word (R60, R70), so a row of more bits is none. -/
def decodeTableWord (nbits w : Nat) : Option Instr :=
  if nbits ≤ 16 then
    match decode (wordBytes (BitVec.ofNat 16 (w % 2 ^ nbits))) with
    | .ok (i, []) => some i
    | _ => none
  else none

end Sys2Proof
end

