-- ==== Sys2Proof/Machine/State.lean ====
section
/-! DEFINITION. The machine's state as plain data (10_state.md R13, R30 to R36), its faults and refusals, and
the state right after reset (R38, R176). -/

namespace Sys2Proof.Machine

/-- The four faults of 60_exceptions.md R150, each with the information it records. A step that raises one
latches it (R156). At a core turn with the latch set the core has no step, and the outcome is `fault` with the
latched fault. All four are safe: the machine stops and nothing further can be proved of it. -/
inductive Fault where
  /-- Raised by the step cycle on a word outside the opcode map (R151); records the word. Safe. -/
  | unknownOpcode (w : Word)
  /-- Raised by `CALL nnn` with `SP = 16` (R152). Safe. -/
  | stackOverflow
  /-- Raised by `RET` with `SP = 0` (R153). Safe. -/
  | stackUnderflow
  /-- Raised by the fetch, `DRW`, `LD B, Vx`, `LD [I], Vx` and `LD Vx, [I]` when they would touch an address
  at or above `MEM_SIZE` (R154); records the lowest such address, an integer that can exceed 16 bits. Safe. -/
  | outOfRangeMemoryAccess (a : Nat)
  deriving DecidableEq, Repr

/-- What the model gives no meaning to. -/
inductive Refusal where
  /-- An instruction whose arm has no meaning yet; no arm of `exec` raises it. Safe. -/
  | notModelled (mnemonic : String)
  /-- Raised by the loader operation on an image longer than `MEM_SIZE - ENTRY` (R178, launch premise of
  R179); never by a step. Safe. -/
  | imageTooLong (length : Nat)
  deriving DecidableEq, Repr

/-- The keys of the key-state provider: entry `k` is `KeyDown(k)` for `k` in 0 to 15 (R31). -/
abbrev Keys := Vector Bool Config.nKeys

/-- One turn of one agent (00_scope.md R11). -/
inductive Turn where
  /-- The core: fetch, execute, apply the directive (R80). -/
  | core
  /-- The timer-decrement driver (R166). -/
  | tick
  /-- The key-state provider, after which exactly these keys are down (R32). -/
  | keys (down : Keys)
  deriving DecidableEq, Repr

/-- `MEM`: the listed bytes, addresses strictly rising, none equal to what its address reads as unlisted. -/
abbrev Memory := List Host.Cell

/-- One row of the display, column 0 at the left (R28). -/
abbrev PixelRow := Vector Bool Config.dispW

/-- `FB`: the rows of the display, row 0 at the top; `true` is a set pixel (R28). -/
abbrev FrameBuffer := Vector PixelRow Config.dispH

/-- The Machine State of R13, the key state (R31), and three fields of the model's own. -/
structure State where
  /-- `V[0]` to `V[15]` (R14); `V[15]` is the flag register (R16). -/
  v : Vector Byte Config.nReg
  /-- `I`, the address register (R19). -/
  i : Word
  /-- `DT`, the delay timer value (R20). -/
  dt : Byte
  /-- `ST`, the sound timer value (R21). -/
  st : Byte
  /-- `PC` (R22). -/
  pc : Word
  /-- `SP`: how many return addresses are on the call stack, 0 to 16 (R23). -/
  sp : Fin (Config.stackDepth + 1)
  /-- `STK[0]` to `STK[15]` (R24). -/
  stk : Vector Word Config.stackDepth
  /-- `MEM` (R26). -/
  mem : Memory
  /-- `FB` (R28). -/
  fb : FrameBuffer
  /-- The fault latch (R36). -/
  fault : Option Fault
  /-- The key state, an environment input (R30, R31). -/
  keys : Keys
  /-- The model's own: the agents that move next, first to move first; empty means the core (R11). -/
  turns : List Turn
  /-- The model's own: how many free values have been drawn (R31, R33, R144). -/
  draws : Nat
  /-- The model's own: the bytes a substituted deterministic random source will deliver, first to come
  first; empty means the free source (R33, R140, R170). -/
  source : List Byte
  deriving DecidableEq, Repr

/-- The machine right after reset with no image loaded (R38, R176): every field zero, `PC = ENTRY`. The last
four fields are the model's choice: log entries 1, 2 and 3. -/
def State.reset : State where
  v := Vector.replicate Config.nReg 0
  i := 0
  dt := 0
  st := 0
  pc := BitVec.ofNat 16 Config.entry
  sp := 0
  stk := Vector.replicate Config.stackDepth 0
  mem := []
  fb := Vector.replicate Config.dispH (Vector.replicate Config.dispW false)
  fault := none
  keys := Vector.replicate Config.nKeys false
  turns := []
  draws := 0
  source := []

end Sys2Proof.Machine
end

