-- ==== Sys2Proof/Machine/Ops.lean ====
section
/-! DEFINITION. The named operations over the state: registers, memory, call stack, pixels, the directive,
and the one way a fault is taken. -/

namespace Sys2Proof.Machine

/-! ### Registers -/

/-- `V[x]` (R7, R14): a 4-bit index is always in range. -/
def State.reg (s : State) (x : Nibble) : Byte := s.v[x.toNat]'x.isLt

/-- `V[x] <- b` (R7, R15): no register is hardwired. -/
def State.setReg (s : State) (x : Nibble) (b : Byte) : State := { s with v := s.v.set x.toNat b x.isLt }

/-- `V[k] <- b`, `V[k + 1] <- ...` for the bytes in order, the register index modulo 16. -/
def State.setRegsFrom (s : State) : Nat → List Byte → State
  | _, [] => s
  | k, b :: bs => (s.setReg (BitVec.ofNat 4 k) b).setRegsFrom (k + 1) bs

/-- `I <- a` (R19). -/
def State.setI (s : State) (a : Word) : State := { s with i := a }

/-- `DT <- b` (R20). -/
def State.setDt (s : State) (b : Byte) : State := { s with dt := b }

/-- `ST <- b` (R21). -/
def State.setSt (s : State) (b : Byte) : State := { s with st := b }

/-! ### Memory -/

/-- Digits 0 to 7 of the font table (43_address_memory.md R133). -/
def fontLow : List Byte :=
  [ 0xF0, 0x90, 0x90, 0x90, 0xF0,  0x20, 0x60, 0x20, 0x20, 0x70,
    0xF0, 0x10, 0xF0, 0x80, 0xF0,  0xF0, 0x10, 0xF0, 0x10, 0xF0,
    0x90, 0x90, 0xF0, 0x10, 0x10,  0xF0, 0x80, 0xF0, 0x10, 0xF0,
    0xF0, 0x80, 0xF0, 0x90, 0xF0,  0xF0, 0x10, 0x20, 0x40, 0x40 ]

/-- Digits 8 to F of the font table (43_address_memory.md R133). -/
def fontHigh : List Byte :=
  [ 0xF0, 0x90, 0xF0, 0x90, 0xF0,  0xF0, 0x90, 0xF0, 0x10, 0xF0,
    0xF0, 0x90, 0xF0, 0x90, 0x90,  0xE0, 0x90, 0xE0, 0x90, 0xE0,
    0xF0, 0x80, 0x80, 0x80, 0xF0,  0xE0, 0x90, 0x90, 0x90, 0xE0,
    0xF0, 0x80, 0xF0, 0x80, 0xF0,  0xF0, 0x80, 0xF0, 0x80, 0x80 ]

/-- The font table: 80 bytes, digit `d` at offset `5 * d` (R133). -/
def fontTable : List Byte := fontLow ++ fontHigh

/-- What an address the memory does not list reads as: its reset contents (R38, R48), zero but for the font
table, which stands below `ENTRY` iff `FONT_PRELOADED`. -/
def unlistedByte (a : Nat) : Byte :=
  if Config.entry ≤ a then 0
  else if Config.fontPreloaded && decide (Config.fontBase.val ≤ a) then
    fontTable.getD (a - Config.fontBase.val) 0
  else 0

/-- The byte at address `a`. -/
def Memory.read : Memory → Nat → Byte
  | [], a => unlistedByte a
  | (k, b) :: m, a => if k = a then b else Memory.read m a

/-- Writes `b` at address `a`, keeping the canonical form. -/
def Memory.write : Memory → Nat → Byte → Memory
  | [], a, b => if b = unlistedByte a then [] else [(a, b)]
  | (k, c) :: m, a, b =>
    if a < k then (if b = unlistedByte a then (k, c) :: m else (a, b) :: (k, c) :: m)
    else if a = k then (if b = unlistedByte a then m else (a, b) :: m)
    else (k, c) :: Memory.write m a b

/-- Writes a run of bytes at ascending addresses (R41). -/
def Memory.writeRun (m : Memory) : Nat → List Byte → Memory
  | _, [] => m
  | a, b :: bs => Memory.writeRun (m.write a b) (a + 1) bs

/-- Every address of the list is above `a`, and the addresses strictly rise. -/
def Memory.above : Nat → Memory → Bool
  | _, [] => true
  | a, (k, _) :: m => decide (a < k) && Memory.above k m

/-- The canonical form: addresses strictly rising, all below `MEM_SIZE`, no entry equal to what its address
reads as unlisted. -/
def Memory.wf (m : Memory) : Bool :=
  (match m with
    | [] => true
    | (k, _) :: rest => Memory.above k rest)
  && m.all fun c => decide (c.1 < Config.memSize) && (c.2 != unlistedByte c.1)

/-- `MEM[a]` (R7). -/
def State.byteAt (s : State) (a : Nat) : Byte := s.mem.read a

/-- The bounds check of an instruction that accesses `count` bytes at `base`, addresses being integers that
never wrap: none if all are in range, else the fault with the lowest address out of range (R45, R46). -/
def rangeFault (base count : Nat) : Option Fault :=
  if count = 0 ∨ base + count ≤ Config.memSize then none
  else some (.outOfRangeMemoryAccess (max base Config.memSize))

/-- `MemRead(base, count)`, the bytes in ascending order of address (R7, R45). -/
def State.memRead (s : State) (base count : Nat) : Except Fault (List Byte) :=
  match rangeFault base count with
  | some f => .error f
  | none => .ok ((List.range count).map fun k => s.byteAt (base + k))

/-- The stores of one instruction: bounds check of all addresses, then the bytes at ascending addresses
(R7 `MemWrite`, R46). -/
def State.memWrite (s : State) (base : Nat) (bytes : List Byte) : Except Fault State :=
  match rangeFault base bytes.length with
  | some f => .error f
  | none => .ok { s with mem := s.mem.writeRun base bytes }

/-- The instruction fetch: the word in the two bytes at `PC` (R40, R81). -/
def State.fetch (s : State) : Except Fault Word :=
  match rangeFault s.pc.toNat 2 with
  | some f => .error f
  | none => .ok (assembleWord (s.byteAt s.pc.toNat) (s.byteAt (s.pc.toNat + 1)))

/-! ### The call stack -/

/-- Pushes a return address: `STK[SP] <- ra`, then `SP <- SP + 1`; overflow at `SP = 16` (R23, R89). -/
def State.pushReturn (s : State) (ra : Word) : Except Fault State :=
  if h : s.sp.val < Config.stackDepth then
    .ok { s with stk := s.stk.set s.sp.val ra h, sp := ⟨s.sp.val + 1, Nat.succ_lt_succ h⟩ }
  else .error .stackOverflow

/-- Pops the top return address `STK[SP - 1]`; the entry is not cleared (R25); underflow at `SP = 0` (R87). -/
def State.popReturn (s : State) : Except Fault (Word × State) :=
  if h : 0 < s.sp.val then
    .ok (s.stk[s.sp.val - 1]'(by have := s.sp.isLt; omega),
      { s with sp := ⟨s.sp.val - 1, by have := s.sp.isLt; omega⟩ })
  else .error .stackUnderflow

/-! ### Pixels -/

/-- `FB[r mod DISP_H][c mod DISP_W]`: coordinates wrap in both axes and are never out of bounds (R29). -/
def FrameBuffer.pixel (fb : FrameBuffer) (r c : Nat) : Bool :=
  (fb[r % Config.dispH]'(Nat.mod_lt _ (by decide)))[c % Config.dispW]'(Nat.mod_lt _ (by decide))

/-- `FB[r mod DISP_H][c mod DISP_W] ^ 1` in its place. -/
def FrameBuffer.flip (fb : FrameBuffer) (r c : Nat) : FrameBuffer :=
  fb.set (r % Config.dispH)
    ((fb[r % Config.dispH]'(Nat.mod_lt _ (by decide))).set (c % Config.dispW) (!fb.pixel r c)
      (Nat.mod_lt _ (by decide)))
    (Nat.mod_lt _ (by decide))

/-- The display with every pixel 0. -/
def FrameBuffer.clear : FrameBuffer := Vector.replicate Config.dispH (Vector.replicate Config.dispW false)

/-! ### Directives and faults -/

/-- What an instruction reports to the step cycle (R85). -/
inductive Directive where
  | advance
  | skip
  | jump (a : Word)
  deriving DecidableEq, Repr

/-- `Skip` if the condition holds, else `Advance` (R86). -/
def skipIf (c : Bool) : Directive := if c then .skip else .advance

/-- Applies a directive: the only write of `PC` anywhere (R83). -/
def State.apply (s : State) : Directive → State
  | .advance => { s with pc := s.pc + 2 }
  | .skip => { s with pc := s.pc + 4 }
  | .jump a => { s with pc := a }

/-- Fault entry (R156): the latch is set and nothing else changes. There is no return from a fault (R158). -/
def State.raise (s : State) (f : Fault) : State := { s with fault := some f }

/-- What `Execute` answers: the state changed and a directive, or a fault with nothing changed (R8, R82). -/
abbrev Transaction := Except Fault (State × Directive)

/-- The end of a step (R83, R84): apply the directive, or latch the fault over the state `s` the
instruction started from. -/
def complete (s : State) : Transaction → Host.Outcome State Fault Refusal
  | .ok (t, d) => .next (t.apply d)
  | .error f => .next (s.raise f)

end Sys2Proof.Machine
end

