-- ==== Sys2Proof/Machine/Operands.lean ====
section
/-! DEFINITION. Operand forms: how a field of the word becomes a value or an address. -/

namespace Sys2Proof.Machine

/-- `zext_16(nnn)` (R63). -/
def zextAddr (nnn : Addr12) : Word := nnn.setWidth 16

/-- `zext_16(b)` of a register value (R63). -/
def zextByte (b : Byte) : Word := b.setWidth 16

/-- The target of `JP V0, nnn`: not reduced to 12 bits (R94). -/
def State.offsetTarget (s : State) (nnn : Addr12) : Word := zextAddr nnn + zextByte (s.reg 0)

/-- The return address `CALL` pushes, `(PC + 2) mod 2^16` (R89). -/
def State.returnAddress (s : State) : Word := s.pc + 2

/-- `FontAddr(v)` (R132). -/
def fontAddr (v : Byte) : Word :=
  if v.toNat ≤ 15 then BitVec.ofNat 16 (Config.fontBase.val + 5 * v.toNat) else Config.fontAddrHigh v

/-- The base of every data access: `I`, an integer that never wraps (R45, R137). -/
def State.base (s : State) : Nat := s.i.toNat

/-- `V[0]` to `V[x]` in order, the operand of `LD [I], Vx` (R135). -/
def State.regsUpTo (s : State) (x : Nibble) : List Byte :=
  (List.range (x.toNat + 1)).map fun k => s.reg (BitVec.ofNat 4 k)

/-- The three decimal digits of a byte, hundreds first (R134). -/
def decimalDigits (v : Byte) : List Byte :=
  [BitVec.ofNat 8 (v.toNat / 100), BitVec.ofNat 8 (v.toNat / 10 % 10), BitVec.ofNat 8 (v.toNat % 10)]

/-- `I` after a block copy: left as it was, or moved past the block where `LOADSTORE_INCREMENTS_I` says so
(R135, R136). -/
def State.afterBlock (s : State) (x : Nibble) : State :=
  if Config.loadStoreIncrementsI then s.setI (BitVec.ofNat 16 (s.i.toNat + x.toNat + 1)) else s

end Sys2Proof.Machine
end

