-- ==== Sys2Proof/Machine/AddressMemory.lean ====
section
/-! DEFINITION. The address register and the memory instructions (43_address_memory.md R130 to R137). No
instruction here writes a flag. -/

namespace Sys2Proof.Machine

/-- `LD I, nnn` (R130). -/
def execLdINnn (nnn : Addr12) (s : State) : Host.Outcome State Fault Refusal :=
  complete s (.ok (s.setI (zextAddr nnn), .advance))

/-- `ADD I, Vx` (R131): modulo 2^16, no flag. -/
def execAddIVx (x : Nibble) (s : State) : Host.Outcome State Fault Refusal :=
  complete s (.ok (s.setI (s.i + zextByte (s.reg x)), .advance))

/-- `LD F, Vx` (R132): reads no memory. -/
def execLdFVx (x : Nibble) (s : State) : Host.Outcome State Fault Refusal :=
  complete s (.ok (s.setI (fontAddr (s.reg x)), .advance))

/-- `LD B, Vx` (R134). -/
def execLdBVx (x : Nibble) (s : State) : Host.Outcome State Fault Refusal :=
  complete s ((s.memWrite s.base (decimalDigits (s.reg x))).map fun t => (t, .advance))

/-- `LD [I], Vx` (R135). -/
def execLdMemVx (x : Nibble) (s : State) : Host.Outcome State Fault Refusal :=
  complete s ((s.memWrite s.base (s.regsUpTo x)).map fun t => (t.afterBlock x, .advance))

/-- `LD Vx, [I]` (R136). -/
def execLdVxMem (x : Nibble) (s : State) : Host.Outcome State Fault Refusal :=
  complete s ((s.memRead s.base (x.toNat + 1)).map fun bytes => ((s.setRegsFrom 0 bytes).afterBlock x, .advance))

end Sys2Proof.Machine
end

