-- ==== Sys2Proof/Machine/Flags.lean ====
section
/-! DEFINITION. The flag register `V[15]` (10_state.md R16, R17) and every flag computation (41_alu.md R114).
Each flag is computed from the values before the instruction. -/

namespace Sys2Proof.Machine

/-- The index of the flag register `VF` (R16). -/
def vf : Nibble := 15

/-- The byte a flag is: 0 or 1 (R16). -/
def flagByte (f : Bool) : Byte := if f then 1 else 0

/-- `V[15] <- 1 or 0`. -/
def State.setFlag (s : State) (f : Bool) : State := s.setReg vf (flagByte f)

/-- Writes the result and the flag in the order `VF_WRITE_ORDER` says: result first, flag last (R17, R101). -/
def State.setResultFlag (s : State) (x : Nibble) (result : Byte) (f : Bool) : State :=
  match Config.vfWriteOrder with
  | .flagLast => (s.setReg x result).setFlag f
  | .resultLast => (s.setFlag f).setReg x result

/-- Carry of `ADD Vx, Vy`: `a + b > 255` over the integers (R108). -/
def addFlag (a b : Byte) : Bool := decide (255 < a.toNat + b.toNat)

/-- Flag of a subtraction: minuend strictly greater than subtrahend (R109, R111; 90_conflicts.md C1). -/
def subFlag (minuend subtrahend : Byte) : Bool := decide (subtrahend.toNat < minuend.toNat)

/-- Flag of `SHR`: the old bit 0 (R110). -/
def shrFlag (v : Byte) : Bool := v.getLsbD 0

/-- Flag of `SHL`: the old bit 7 (R112). -/
def shlFlag (v : Byte) : Bool := v.getLsbD 7

end Sys2Proof.Machine
end

