-- ==== Sys2Proof/Machine/Alu.lean ====
section
/-! DEFINITION. The opcode ALU (41_alu.md R100 to R114). Every instruction here advances and raises no fault;
operands are read from the state before any write (R101). -/

namespace Sys2Proof.Machine

/-- `LD Vx, kk` (R102). -/
def execLdVxKk (x : Nibble) (kk : Byte) (s : State) : Host.Outcome State Fault Refusal :=
  complete s (.ok (s.setReg x kk, .advance))

/-- `ADD Vx, kk` (R103): wraps, no flag. -/
def execAddVxKk (x : Nibble) (kk : Byte) (s : State) : Host.Outcome State Fault Refusal :=
  complete s (.ok (s.setReg x (s.reg x + kk), .advance))

/-- `LD Vx, Vy` (R104). -/
def execLdVxVy (x y : Nibble) (s : State) : Host.Outcome State Fault Refusal :=
  complete s (.ok (s.setReg x (s.reg y), .advance))

/-- `OR Vx, Vy` (R105): no flag. -/
def execOrVxVy (x y : Nibble) (s : State) : Host.Outcome State Fault Refusal :=
  complete s (.ok (s.setReg x (s.reg x ||| s.reg y), .advance))

/-- `AND Vx, Vy` (R106): no flag. -/
def execAndVxVy (x y : Nibble) (s : State) : Host.Outcome State Fault Refusal :=
  complete s (.ok (s.setReg x (s.reg x &&& s.reg y), .advance))

/-- `XOR Vx, Vy` (R107): no flag. -/
def execXorVxVy (x y : Nibble) (s : State) : Host.Outcome State Fault Refusal :=
  complete s (.ok (s.setReg x (s.reg x ^^^ s.reg y), .advance))

/-- `ADD Vx, Vy` (R108). -/
def execAddVxVy (x y : Nibble) (s : State) : Host.Outcome State Fault Refusal :=
  complete s (.ok (s.setResultFlag x (s.reg x + s.reg y) (addFlag (s.reg x) (s.reg y)), .advance))

/-- `SUB Vx, Vy` (R109): the minuend is `V[x]`. -/
def execSubVxVy (x y : Nibble) (s : State) : Host.Outcome State Fault Refusal :=
  complete s (.ok (s.setResultFlag x (s.reg x - s.reg y) (subFlag (s.reg x) (s.reg y)), .advance))

/-- `SHR Vx` (R110): the `y` field is ignored (R68). -/
def execShrVx (x _y : Nibble) (s : State) : Host.Outcome State Fault Refusal :=
  complete s (.ok (s.setResultFlag x (s.reg x >>> 1) (shrFlag (s.reg x)), .advance))

/-- `SUBN Vx, Vy` (R111): the minuend is `V[y]`, the destination still `V[x]`. -/
def execSubnVxVy (x y : Nibble) (s : State) : Host.Outcome State Fault Refusal :=
  complete s (.ok (s.setResultFlag x (s.reg y - s.reg x) (subFlag (s.reg y) (s.reg x)), .advance))

/-- `SHL Vx` (R112): the `y` field is ignored (R68). -/
def execShlVx (x _y : Nibble) (s : State) : Host.Outcome State Fault Refusal :=
  complete s (.ok (s.setResultFlag x (s.reg x <<< 1) (shlFlag (s.reg x)), .advance))

end Sys2Proof.Machine
end

