-- ==== Sys2Proof/Machine/Control.lean ====
section
/-! DEFINITION. Control transfer (40_control_flow.md R87 to R94). No instruction here writes a flag. -/

namespace Sys2Proof.Machine

/-- `RET` (R87). -/
def execRet (s : State) : Host.Outcome State Fault Refusal :=
  complete s (s.popReturn.map fun r => (r.2, .jump r.1))

/-- `JP nnn` (R88). -/
def execJpNnn (nnn : Addr12) (s : State) : Host.Outcome State Fault Refusal :=
  complete s (.ok (s, .jump (zextAddr nnn)))

/-- `CALL nnn` (R89). -/
def execCallNnn (nnn : Addr12) (s : State) : Host.Outcome State Fault Refusal :=
  complete s ((s.pushReturn s.returnAddress).map fun t => (t, .jump (zextAddr nnn)))

/-- `SE Vx, kk` (R90). -/
def execSeVxKk (x : Nibble) (kk : Byte) (s : State) : Host.Outcome State Fault Refusal :=
  complete s (.ok (s, skipIf (s.reg x == kk)))

/-- `SNE Vx, kk` (R91). -/
def execSneVxKk (x : Nibble) (kk : Byte) (s : State) : Host.Outcome State Fault Refusal :=
  complete s (.ok (s, skipIf (s.reg x != kk)))

/-- `SE Vx, Vy` (R92). -/
def execSeVxVy (x y : Nibble) (s : State) : Host.Outcome State Fault Refusal :=
  complete s (.ok (s, skipIf (s.reg x == s.reg y)))

/-- `SNE Vx, Vy` (R93). -/
def execSneVxVy (x y : Nibble) (s : State) : Host.Outcome State Fault Refusal :=
  complete s (.ok (s, skipIf (s.reg x != s.reg y)))

/-- `JP V0, nnn` (R94). -/
def execJpV0Nnn (nnn : Addr12) (s : State) : Host.Outcome State Fault Refusal :=
  complete s (.ok (s, .jump (s.offsetTarget nnn)))

end Sys2Proof.Machine
end

