-- ==== Sys2Proof/Machine/Display.lean ====
section
/-! DEFINITION. The frame-buffer blitter and the collision detector (42_display.md R120 to R127). -/

namespace Sys2Proof.Machine

/-- The display while a sprite is drawn, and whether a pixel has gone from 1 to 0 so far. -/
structure Blit where
  fb : FrameBuffer
  hit : Bool
  deriving DecidableEq, Repr

/-- XORs a 1 onto one display pixel; a set pixel is a collision (R122, R125). -/
def Blit.plot (p : Blit) (r c : Nat) : Blit := ⟨p.fb.flip r c, p.hit || p.fb.pixel r c⟩

/-- Draws one sprite row: bit `7 - c` of the byte is sprite column `c` (R120, R122). -/
def Blit.row (p : Blit) (r x0 : Nat) (b : Byte) : Blit :=
  (List.range 8).foldl (fun q c => if b.getLsbD (7 - c) then q.plot r (x0 + c) else q) p

/-- Draws the sprite rows at rows `r`, `r + 1`, ...; every pixel wraps on its own (R124). -/
def Blit.rows (p : Blit) (x0 : Nat) : Nat → List Byte → Blit
  | _, [] => p
  | r, b :: bs => (p.row r x0 b).rows x0 (r + 1) bs

/-- `CLS` (R121): `V[15]` is unchanged. -/
def execCls (s : State) : Host.Outcome State Fault Refusal :=
  complete s (.ok ({ s with fb := FrameBuffer.clear }, .advance))

/-- `DRW Vx, Vy, n` (R122): the coordinates are read before `V[15]` is written (R126). -/
def execDrwVxVyN (x y n : Nibble) (s : State) : Host.Outcome State Fault Refusal :=
  complete s ((s.memRead s.base n.toNat).map fun sprite =>
    let p := Blit.rows ⟨s.fb, false⟩ (s.reg x).toNat (s.reg y).toNat sprite
    (({ s with fb := p.fb } : State).setFlag p.hit, .advance))

end Sys2Proof.Machine
end

