-- ==== Sys2Proof/Machine/Environment.lean ====
section
/-! DEFINITION. The other agents (00_scope.md R11) and the inputs the core samples from them (R9). -/

namespace Sys2Proof.Machine

/-- A timer one tick later: it stops at 0 and does not wrap (R166). -/
def tickTimer (b : Byte) : Byte := if b = 0 then 0 else b - 1

/-- One step of the timer-decrement driver (R166). -/
def State.tick (s : State) : State := { s with dt := tickTimer s.dt, st := tickTimer s.st }

/-- One step of the key-state provider (R32). -/
def State.setKeys (s : State) (down : Keys) : State := { s with keys := down }

/-- `RandByte()` (R33): the next byte of a substituted source, or a free byte; and the state after the draw. -/
def State.drawByte (s : State) : Byte × State :=
  match s.source with
  | b :: rest => (b, { s with source := rest })
  | [] => (Config.freeByte s.draws, { s with draws := s.draws + 1 })

/-- `KeyDown(k)` (R31): the key's state for `k` in 0 to 15, a free answer above; and the state after the
query. -/
def State.keyDown (s : State) (k : Byte) : Bool × State :=
  if h : k.toNat < Config.nKeys then (s.keys[k.toNat], s)
  else (Config.freeKey s.draws, { s with draws := s.draws + 1 })

/-- The numbers of the keys that are down, lowest first. -/
def State.keysDown (s : State) : List Byte :=
  (List.range Config.nKeys).filterMap fun k =>
    if s.keys[k % Config.nKeys]'(Nat.mod_lt _ (by decide)) then some (BitVec.ofNat 8 k) else none

/-- The key a key wait reports (R144): none while no key is down (the hold), the one key that is down, a free
choice among several; and the state after the choice. -/
def State.waitKey (s : State) : Option (Byte × State) :=
  match s.keysDown with
  | [] => none
  | [k] => some (k, s)
  | k :: ks =>
    some ((k :: ks).getD (Config.freeChoice s.draws % (k :: ks).length) k, { s with draws := s.draws + 1 })

/-- The loader (R178): byte `i` of the image at `ENTRY + i`, refused where the launch premise
`L <= MEM_SIZE - ENTRY` fails. It acts before the first fetch only and is no part of a step. -/
def State.load (s : State) (image : List Byte) : Host.Outcome State Fault Refusal :=
  if imageFits image then .next { s with mem := s.mem.writeRun Config.entry image }
  else .refused (.imageTooLong image.length)

end Sys2Proof.Machine
end

