-- ==== Sys2Proof/Machine/RandomKeyTimer.lean ====
section
/-! DEFINITION. Random, key and timer instructions (44_timer_key_random.md R140 to R147). No instruction here
raises a fault or writes a flag. -/

namespace Sys2Proof.Machine

/-- `RND Vx, kk` (R140): exactly one byte is drawn. -/
def execRndVxKk (x : Nibble) (kk : Byte) (s : State) : Host.Outcome State Fault Refusal :=
  complete s (.ok (s.drawByte.2.setReg x (s.drawByte.1 &&& kk), .advance))

/-- `SKP Vx` (R141). -/
def execSkpVx (x : Nibble) (s : State) : Host.Outcome State Fault Refusal :=
  complete s (.ok ((s.keyDown (s.reg x)).2, skipIf (s.keyDown (s.reg x)).1))

/-- `SKNP Vx` (R142). -/
def execSknpVx (x : Nibble) (s : State) : Host.Outcome State Fault Refusal :=
  complete s (.ok ((s.keyDown (s.reg x)).2, skipIf (!(s.keyDown (s.reg x)).1)))

/-- `LD Vx, DT` (R143). -/
def execLdVxDt (x : Nibble) (s : State) : Host.Outcome State Fault Refusal :=
  complete s (.ok (s.setReg x s.dt, .advance))

/-- `LD Vx, K` (R144): a hold while no key is down, in which nothing changes and `PC` stays at this
instruction; once a key is down the instruction executes whole. -/
def execLdVxKey (x : Nibble) (s : State) : Host.Outcome State Fault Refusal :=
  match s.waitKey with
  | none => .next s
  | some (k, t) => complete s (.ok (t.setReg x k, .advance))

/-- `LD DT, Vx` (R145). -/
def execLdDtVx (x : Nibble) (s : State) : Host.Outcome State Fault Refusal :=
  complete s (.ok (s.setDt (s.reg x), .advance))

/-- `LD ST, Vx` (R146). -/
def execLdStVx (x : Nibble) (s : State) : Host.Outcome State Fault Refusal :=
  complete s (.ok (s.setSt (s.reg x), .advance))

end Sys2Proof.Machine
end

