-- ==== Sys2Proof/Machine/Cycle.lean ====
section
/-! DEFINITION. The step cycle of the core (40_control_flow.md R80 to R84) and one turn of the machine. -/

namespace Sys2Proof.Machine

/-- One step of the core: no step once a fault is latched (R156); fetch before execute (R159); an unknown
word raises `UnknownOpcode` (R82). -/
def coreStep (s : State) : Host.Outcome State Fault Refusal :=
  match s.fault with
  | some f => .fault f
  | none =>
    match s.fetch with
    | .error f => complete s (.error f)
    | .ok w =>
      match decodeWord w with
      | .error _ => complete s (.error (.unknownOpcode w))
      | .ok i => exec i s

/-- The agent that moves next: the head of `turns`, the core where the list is empty (R11). -/
def State.turn (s : State) : Turn := s.turns.headD .core

/-- The state with that turn taken off the list. -/
def State.popTurn (s : State) : State := { s with turns := s.turns.tail }

/-- One turn of one agent (R11). -/
def turnStep (s : State) : Host.Outcome State Fault Refusal :=
  match s.turn with
  | .core => coreStep s.popTurn
  | .tick => .next s.popTurn.tick
  | .keys down => .next (s.popTurn.setKeys down)

/-- `PC` where an instruction can be fetched from: `PC` itself if it is in range, else `ENTRY`. -/
def State.fetchablePc (s : State) : Word :=
  if s.pc.toNat + 2 ≤ Config.memSize then s.pc else BitVec.ofNat 16 Config.entry

/-- The state with `word` placed where the core fetches next, the core the next agent to move, and no fault
latched (R80: otherwise the core has no step). -/
def State.placeWord (s : State) (word : Word) : State :=
  { s with
    pc := s.fetchablePc
    mem := s.mem.writeRun s.fetchablePc.toNat (wordBytes word)
    fault := none
    turns := [] }

end Sys2Proof.Machine
end

