-- ==== Sys2Proof/Machine/Step.lean ====
section
/-! DEFINITION. The step of the machine and the placing of an instruction. -/

namespace Sys2Proof.Machine

/-- One step: one turn of the agent that moves next (00_scope.md R11). -/
def step : State → Host.Outcome State Fault Refusal := turnStep

/-- The state in which the next step fetches the instruction whose bits, numbered as
spec/opcode_table.json numbers them, are `w`. -/
def State.withFetchWord (s : State) (nbits w : Nat) : State := s.placeWord (BitVec.ofNat 16 (w % 2 ^ nbits))

end Sys2Proof.Machine
end

