-- ==== Sys2Proof/Safety.lean ====
section
/-! DEFINITION. The terms claims use: when the core runs, waits, has failed or is idle; which parts of the
state an instruction may write; which fault a step raises. Each is transcribed from the spec's own table or
sentence, apart from the meanings. -/

namespace Sys2Proof.Machine

/-! ### The life of a run (70_reset_and_hazards.md R187, R188) -/

/-- The run has failed: a fault is latched (R187). -/
def State.failed (s : State) : Bool := s.fault.isSome

/-- The instruction at `PC`, if the fetch is in range and the word is one. -/
def State.instrAtPc (s : State) : Option Instr :=
  match s.fetch with
  | .error _ => none
  | .ok w => (decodeWord w).toOption

/-- No key is down (R144). -/
def State.noKeyDown (s : State) : Prop := ∀ k : Fin Config.nKeys, s.keys[k] = false

/-- The core is held: it waits in `LD Vx, K` with no key down (R84, R188). -/
def State.held (s : State) : Prop :=
  s.fault = none ∧ (∃ x, s.instrAtPc = some (.ldVxKey x)) ∧ s.noKeyDown

/-- The core has a step (R80). -/
def State.coreEnabled (s : State) : Prop := s.fault = none ∧ ¬ s.held

/-- The spec's convention for a finished program: a jump to itself and no fault (R187). -/
def State.idle (s : State) : Prop :=
  s.fault = none ∧ ∃ nnn, s.instrAtPc = some (.jpNnn nnn) ∧ zextAddr nnn = s.pc

/-! ### What an instruction may write -/

/-- The parts of the state. -/
inductive Part where
  | regs | i | dt | st | pc | sp | stk | mem | fb | fault | keys | turns | draws | source
  deriving DecidableEq, Repr

/-- A part is the same in two states; memory through the read of every byte, registers through the read of
every register. -/
def Part.same (s t : State) : Part → Prop
  | .regs => ∀ r, t.reg r = s.reg r
  | .i => t.i = s.i
  | .dt => t.dt = s.dt
  | .st => t.st = s.st
  | .pc => t.pc = s.pc
  | .sp => t.sp = s.sp
  | .stk => t.stk = s.stk
  | .mem => ∀ a, t.byteAt a = s.byteAt a
  | .fb => t.fb = s.fb
  | .fault => t.fault = s.fault
  | .keys => t.keys = s.keys
  | .turns => t.turns = s.turns
  | .draws => t.draws = s.draws
  | .source => t.source = s.source

/-- From `s` to `t`, every part is unchanged except those listed. -/
def OnlyChanges (parts : List Part) (s t : State) : Prop := ∀ p, p ∉ parts → p.same s t

/-- From `s` to `t`, every register is unchanged except those listed. -/
def OnlyRegs (rs : List Nibble) (s t : State) : Prop := ∀ r, r ∉ rs → t.reg r = s.reg r

/-- From `s` to `t`, every byte of memory outside `base` to `base + count - 1` is unchanged. -/
def OnlyBytes (base count : Nat) (s t : State) : Prop :=
  ∀ a, a < base ∨ base + count ≤ a → t.byteAt a = s.byteAt a

/-- The parts an instruction may write: the "written by" column of 10_state.md R13, with the draw counter
and the source for the instructions that sample the environment (R9, R31, R33). `PC` is every
instruction's, through its directive (R83). -/
def partsWritten : Instr → List Part
  | .cls => [.pc, .fb]
  | .ret => [.pc, .sp]
  | .jpNnn _ | .jpV0Nnn _ => [.pc]
  | .callNnn _ => [.pc, .sp, .stk]
  | .seVxKk _ _ | .sneVxKk _ _ | .seVxVy _ _ | .sneVxVy _ _ => [.pc]
  | .ldVxKk _ _ | .addVxKk _ _ | .ldVxVy _ _ | .orVxVy _ _ | .andVxVy _ _ | .xorVxVy _ _ => [.pc, .regs]
  | .addVxVy _ _ | .subVxVy _ _ | .shrVx _ _ | .subnVxVy _ _ | .shlVx _ _ => [.pc, .regs]
  | .ldINnn _ | .addIVx _ | .ldFVx _ => [.pc, .i]
  | .rndVxKk _ _ => [.pc, .regs, .draws, .source]
  | .drwVxVyN _ _ _ => [.pc, .regs, .fb]
  | .skpVx _ | .sknpVx _ => [.pc, .draws]
  | .ldVxDt _ => [.pc, .regs]
  | .ldVxKey _ => [.pc, .regs, .draws]
  | .ldDtVx _ => [.pc, .dt]
  | .ldStVx _ => [.pc, .st]
  | .ldBVx _ | .ldMemVx _ => [.pc, .mem]
  | .ldVxMem _ => [.pc, .regs]

/-- The six instructions that write `V[15]` as a side effect (R16). -/
def setsFlag : Instr → Bool
  | .addVxVy _ _ | .subVxVy _ _ | .subnVxVy _ _ | .shrVx _ _ | .shlVx _ _ | .drwVxVyN _ _ _ => true
  | .cls | .ret | .jpNnn _ | .callNnn _ | .seVxKk _ _ | .sneVxKk _ _ | .seVxVy _ _ | .ldVxKk _ _ => false
  | .addVxKk _ _ | .ldVxVy _ _ | .orVxVy _ _ | .andVxVy _ _ | .xorVxVy _ _ | .sneVxVy _ _ => false
  | .ldINnn _ | .jpV0Nnn _ | .rndVxKk _ _ | .skpVx _ | .sknpVx _ | .ldVxDt _ | .ldVxKey _ => false
  | .ldDtVx _ | .ldStVx _ | .addIVx _ | .ldFVx _ | .ldBVx _ | .ldMemVx _ | .ldVxMem _ => false

/-- `V[r]` is a destination of the instruction, by operand: the writers of R15. -/
def isDestination (r : Nibble) : Instr → Bool
  | .ldVxKk x _ | .addVxKk x _ | .ldVxVy x _ | .orVxVy x _ | .andVxVy x _ | .xorVxVy x _ => r == x
  | .addVxVy x _ | .subVxVy x _ | .shrVx x _ | .subnVxVy x _ | .shlVx x _ => r == x
  | .rndVxKk x _ | .ldVxDt x | .ldVxKey x => r == x
  | .ldVxMem x => decide (r.toNat ≤ x.toNat)
  | .cls | .ret | .jpNnn _ | .callNnn _ | .seVxKk _ _ | .sneVxKk _ _ | .seVxVy _ _ | .sneVxVy _ _ => false
  | .ldINnn _ | .jpV0Nnn _ | .drwVxVyN _ _ _ | .skpVx _ | .sknpVx _ | .ldDtVx _ | .ldStVx _ => false
  | .addIVx _ | .ldFVx _ | .ldBVx _ | .ldMemVx _ => false

/-! ### Directives (40_control_flow.md R86) -/

/-- Which directives an instruction can return. -/
inductive DirectiveClass where
  /-- `Jump`, always. -/
  | jumps
  /-- `Skip` or `Advance`, by condition. -/
  | skips
  /-- `Advance`, always. -/
  | advances
  deriving DecidableEq, Repr

/-- The three lists of R86. -/
def directiveClass : Instr → DirectiveClass
  | .ret | .jpNnn _ | .callNnn _ | .jpV0Nnn _ => .jumps
  | .seVxKk _ _ | .sneVxKk _ _ | .seVxVy _ _ | .sneVxVy _ _ | .skpVx _ | .sknpVx _ => .skips
  | .cls | .ldVxKk _ _ | .addVxKk _ _ | .ldVxVy _ _ | .orVxVy _ _ | .andVxVy _ _ => .advances
  | .xorVxVy _ _ | .addVxVy _ _ | .subVxVy _ _ | .shrVx _ _ | .subnVxVy _ _ | .shlVx _ _ => .advances
  | .ldINnn _ | .rndVxKk _ _ | .drwVxVyN _ _ _ | .ldVxDt _ | .ldVxKey _ | .ldDtVx _ => .advances
  | .ldStVx _ | .addIVx _ | .ldFVx _ | .ldBVx _ | .ldMemVx _ | .ldVxMem _ => .advances

/-! ### Faults (60_exceptions.md R155) -/

/-- The fault of an access to `count` bytes at `base`, as R155 writes it. -/
def accessFault (base count : Nat) : Option Fault :=
  if 1 ≤ count ∧ Config.memSize ≤ base + count - 1 then
    some (.outOfRangeMemoryAccess (max base Config.memSize))
  else none

/-- The rows of R155 for an instruction that executes: the fault it raises, if any. -/
def faultIn (s : State) : Instr → Option Fault
  | .callNnn _ => if s.sp.val = 16 then some .stackOverflow else none
  | .ret => if s.sp.val = 0 then some .stackUnderflow else none
  | .drwVxVyN _ _ n => accessFault s.i.toNat n.toNat
  | .ldBVx _ => accessFault s.i.toNat 3
  | .ldMemVx x | .ldVxMem x => accessFault s.i.toNat (x.toNat + 1)
  | .cls | .jpNnn _ | .seVxKk _ _ | .sneVxKk _ _ | .seVxVy _ _ | .ldVxKk _ _ | .addVxKk _ _ => none
  | .ldVxVy _ _ | .orVxVy _ _ | .andVxVy _ _ | .xorVxVy _ _ | .addVxVy _ _ | .subVxVy _ _ => none
  | .shrVx _ _ | .subnVxVy _ _ | .shlVx _ _ | .sneVxVy _ _ | .ldINnn _ | .jpV0Nnn _ => none
  | .rndVxKk _ _ | .skpVx _ | .sknpVx _ | .ldVxDt _ | .ldVxKey _ | .ldDtVx _ | .ldStVx _ => none
  | .addIVx _ | .ldFVx _ => none

/-- All rows of R155: the fault the step of a running core raises, if any. -/
def State.coreFault (s : State) : Option Fault :=
  if Config.memSize ≤ s.pc.toNat + 1 then
    some (.outOfRangeMemoryAccess (max s.pc.toNat Config.memSize))
  else
    let w := assembleWord (s.byteAt s.pc.toNat) (s.byteAt (s.pc.toNat + 1))
    match decodeWord w with
    | .error _ => some (.unknownOpcode w)
    | .ok i => faultIn s i

/-! ### Sprites (42_display.md R120, R122) -/

/-- The sprite `DRW Vx, Vy, n` draws from `s` has a 1 for the display pixel `(r, c)`: some sprite pixel
`(r', c')` with bit `7 - c'` of the byte at `I + r'` set lands there (R120). -/
def State.spriteSets (s : State) (x y n : Nibble) (r c : Nat) : Prop :=
  ∃ r' c' : Nat, r' < n.toNat ∧ c' < 8 ∧
    (s.byteAt (s.i.toNat + r')).getLsbD (7 - c') = true ∧
    r = ((s.reg y).toNat + r') % Config.dispH ∧ c = ((s.reg x).toNat + c') % Config.dispW

/-! ### The call stack -/

/-- `CALL` to each target in turn, each from the state the one before it left. -/
def callEach : List Addr12 → State → Host.Outcome State Fault Refusal
  | [], s => .next s
  | nnn :: rest, s =>
    match exec (.callNnn nnn) s with
    | .next t => callEach rest t
    | .fault f => .fault f
    | .refused r => .refused r

/-! ### Invariant -/

/-- What every step keeps: the memory is in its canonical form, all its addresses below `MEM_SIZE`. -/
def State.Inv (s : State) : Prop := s.mem.wf = true

end Sys2Proof.Machine
end

