-- ==== Sys2Proof/Certificates/Slice0/Obligations.lean ====
section
/-! DEFINITION. The statements for the provers. Each docstring names the rules of spec/ it formalises. "The
spec's decision D<n>" is a row of 92_eei_decisions.md: a choice the spec marks as its own. -/

open Sys2Proof Sys2Proof.Machine

/-! ### Decoding (30_encoding.md) -/

/-- Decoding the word of an instruction gives the instruction back, every operand at every value (R61, R62,
R65, R68). The bit positions are the spec's decision D6, log entry 9. -/
def Obligations.DecodeOfEncode : Prop := ∀ i : Instr, decodeWord (encode i) = .ok i

/-- A word that decodes is the word of what it decodes to: no bit of a defined word is dropped (R65, R68; D6,
log entry 9). -/
def Obligations.EncodeOfDecode : Prop := ∀ (w : Word) (i : Instr), decodeWord w = .ok i → encode i = w

/-- R65: the map has 34 rows, a word is a row's instruction iff its masked bits are the row's pattern, and no
two rows overlap (D6, log entry 9). -/
def Obligations.OpcodeMapSelectsInstruction : Prop :=
  opcodeMap.length = 34 ∧
  (∀ (w : Word) (r : OpRow), r ∈ opcodeMap →
    (w &&& r.mask = r.pattern ↔ ∃ i, decodeWord w = .ok i ∧ i.mnemonic = r.mnemonic)) ∧
  ∀ (w : Word) (r r' : OpRow), r ∈ opcodeMap → r' ∈ opcodeMap →
    w &&& r.mask = r.pattern → w &&& r'.mask = r'.pattern → r = r'

/-- R66, R67: a word is an instruction, or it is one of the listed unknown words and decodes to the unknown
opcode outcome with itself (the spec's decision D11, log entry 9). -/
def Obligations.DecodingIsTotal : Prop :=
  ∀ w : Word,
    (wordUnknown w = true → decodeWord w = .error (.unknownOpcode w)) ∧
    (wordUnknown w = false → ∃ i, decodeWord w = .ok i)

/-- A few words of each family, written out by hand in 95_test_vectors.md section 2.1. -/
def Obligations.ListedWordsDecode : Prop :=
  decodeWord 0x2FFF = .ok (.callNnn 0xFFF) ∧ decodeWord 0x5AB0 = .ok (.seVxVy 10 11) ∧
  decodeWord 0x7DFF = .ok (.addVxKk 13 0xFF) ∧ decodeWord 0x8AB6 = .ok (.shrVx 10 11) ∧
  decodeWord 0xD12F = .ok (.drwVxVyN 1 2 15) ∧ decodeWord 0xF133 = .ok (.ldBVx 1) ∧
  decodeWord 0xE1A1 = .ok (.sknpVx 1) ∧ decodeWord 0x5AB1 = .error (.unknownOpcode 0x5AB1)

/-! ### The step cycle (40_control_flow.md R80 to R86) -/

/-- R80, R82: where no fault is latched, it is the core's turn and the two bytes at `PC` decode to an
instruction, the step is `exec` of it, on the state with the core's turn taken off the schedule (log entry 1). -/
def Obligations.StepRunsDecodedInstruction : Prop :=
  ∀ (s : State) (i : Instr), s.fault = none → s.turn = .core → s.pc.toNat + 1 < 4096 →
    decode [s.byteAt s.pc.toNat, s.byteAt (s.pc.toNat + 1)] = .ok (i, []) →
    step s = exec i s.popTurn

/-- R81: the fetch of the word at `PC`, high byte at the lower address (R40), or the fault of the fetch. The
byte order and the fault are the spec's decisions D2 and D19, log entries 7 and 9. -/
def Obligations.FetchReadsWordAtPc : Prop :=
  ∀ s : State,
    (s.pc.toNat + 1 < 4096 → ∃ w, s.fetch = .ok w ∧
      w.toNat = 256 * (s.byteAt s.pc.toNat).toNat + (s.byteAt (s.pc.toNat + 1)).toNat) ∧
    (4096 ≤ s.pc.toNat + 1 → s.fetch = .error (.outOfRangeMemoryAccess (max s.pc.toNat 4096)))

/-- R159, R81: an out-of-range fetch latches its fault, whatever the bytes, and nothing else changes but the
schedule (decision D19, log entries 5 and 9). -/
def Obligations.FetchOutOfRangeLatches : Prop :=
  ∀ s : State, s.fault = none → s.turn = .core → 4096 ≤ s.pc.toNat + 1 →
    ∃ t, step s = .next t ∧ t.fault = some (.outOfRangeMemoryAccess (max s.pc.toNat 4096)) ∧
      OnlyChanges [.fault, .turns] s t

/-- R151: an unknown word latches `UnknownOpcode` with the word, nothing else changes but the schedule, and a
step raises that fault for unknown words only (decisions D11 and D18, log entries 5 and 9). -/
def Obligations.UnknownWordLatches : Prop :=
  (∀ (s : State) (w : Word), s.fault = none → s.turn = .core → s.fetch = .ok w → wordUnknown w = true →
    ∃ t, step s = .next t ∧ t.fault = some (.unknownOpcode w) ∧ OnlyChanges [.fault, .turns] s t) ∧
  ∀ (s t : State) (w : Word), s.fault = none → step s = .next t → t.fault = some (.unknownOpcode w) →
    s.fetch = .ok w ∧ wordUnknown w = true

/-- R156, R158: with a fault latched the core has no step, and no agent's step clears the latch or changes
anything but the timers, the keys and the schedule (decision D18, log entry 5). -/
def Obligations.LatchedFaultIsForEver : Prop :=
  ∀ (s : State) (f : Fault), s.fault = some f →
    (s.turn = .core → step s = .fault f) ∧
    (s.turn ≠ .core → ∃ t, step s = .next t) ∧
    ∀ t, step s = .next t → OnlyChanges [.dt, .st, .keys, .turns] s t

/-- R157, R46: an instruction that raises a fault changes nothing but the latch (decision D17, log entry 5). -/
def Obligations.FaultsArePrecise : Prop :=
  ∀ (i : Instr) (s t : State) (f : Fault), s.fault = none → exec i s = .next t → t.fault = some f →
    OnlyChanges [.fault] s t

/-- R155: the step of a running core latches exactly the fault the table gives, none where the table gives
none; and so does each instruction on its own (decisions D16 and D19, log entries 5 and 9). -/
def Obligations.FaultTable : Prop :=
  (∀ s : State, s.fault = none → s.turn = .core →
    ∃ t, step s = .next t ∧ t.fault = s.coreFault) ∧
  ∀ (i : Instr) (s : State), s.fault = none → ∃ t, exec i s = .next t ∧ t.fault = faultIn s i

/-- R45: an access to `count` bytes at `base` is in range iff every address of it is below `MEM_SIZE`; else
the fault carries the lowest address of it that is not. Addresses are never wrapped (decision D16, log
entries 7 and 9). -/
def Obligations.LowestBadAddressIsReported : Prop :=
  ∀ base count : Nat,
    (rangeFault base count = none ↔ ∀ k, k < count → base + k < 4096) ∧
    ∀ a, rangeFault base count = some (.outOfRangeMemoryAccess a) ↔
      (∃ k, k < count ∧ a = base + k) ∧ 4096 ≤ a ∧ ∀ k, k < count → 4096 ≤ base + k → a ≤ base + k

/-- R83, R86: what an instruction that raises no fault does to `PC`, by its class: 24 instructions advance
(but for a held key wait, which leaves it), six skip or advance. -/
def Obligations.DirectiveClassMovesPc : Prop :=
  ∀ (i : Instr) (s t : State), s.fault = none → exec i s = .next t → t.fault = none →
    (directiveClass i = .skips → t.pc = s.pc + 2 ∨ t.pc = s.pc + 4) ∧
    (directiveClass i = .advances →
      t.pc = s.pc + 2 ∨ (∃ x, i = .ldVxKey x) ∧ s.noKeyDown ∧ t = s)

/-- R22: where the fetch is in range, no advance or skip wraps `PC` (derived by the spec from R81 and R45). -/
def Obligations.PcNeverWraps : Prop :=
  ∀ (s : State) (w : Word), s.fetch = .ok w →
    (s.apply .advance).pc.toNat = s.pc.toNat + 2 ∧ (s.apply .skip).pc.toNat = s.pc.toNat + 4

/-- R84, R188: a held core stays where it is, and nothing changes but the schedule (decision D21, log entry
10). -/
def Obligations.HeldCoreWaits : Prop :=
  ∀ s : State, s.held → s.turn = .core → ∃ t, step s = .next t ∧ OnlyChanges [.turns] s t

/-- R187: in an idle state the core's step reproduces the same Machine State; only the schedule moves
(decision D28). -/
def Obligations.IdleStepReproducesState : Prop :=
  ∀ s : State, s.idle → s.turn = .core → ∃ t, step s = .next t ∧ OnlyChanges [.turns] s t ∧ t.idle

/-! ### Control transfer (40_control_flow.md R87 to R97) -/

/-- R87: the top entry is popped into `PC` and stays in the stack. That `SP` counts the entries is the spec's
decision D8, log entry 9. With `SP = 0` the latch alone is set: R156, log entry 5 (DEDUCED), decisions D17 and
D18. -/
def Obligations.RetPopsReturnAddress : Prop :=
  ∀ s : State,
    (0 < s.sp.val → ∃ t, exec .ret s = .next t ∧ s.stk[s.sp.val - 1]? = some t.pc ∧
      t.sp.val = s.sp.val - 1 ∧ OnlyChanges [.pc, .sp] s t) ∧
    (s.sp.val = 0 → ∃ t, exec .ret s = .next t ∧ t.fault = some .stackUnderflow ∧ OnlyChanges [.fault] s t)

/-- R88. -/
def Obligations.JpJumpsToTarget : Prop :=
  ∀ (nnn : Addr12) (s : State), ∃ t, exec (.jpNnn nnn) s = .next t ∧ t.pc.toNat = nnn.toNat ∧
    OnlyChanges [.pc] s t

/-- R89: the address after the call is pushed, every other entry is as it was. That `SP` counts the entries is
the spec's decision D8, log entry 9. With `SP = 16` the latch alone is set: R156, log entry 5 (DEDUCED),
decisions D17 and D18. -/
def Obligations.CallPushesNextAddress : Prop :=
  ∀ (nnn : Addr12) (s : State),
    (s.sp.val < 16 → ∃ t, exec (.callNnn nnn) s = .next t ∧ t.pc.toNat = nnn.toNat ∧
      t.sp.val = s.sp.val + 1 ∧
      (∃ ra, t.stk[s.sp.val]? = some ra ∧ ra.toNat = (s.pc.toNat + 2) % 65536) ∧
      (∀ k, k ≠ s.sp.val → t.stk[k]? = s.stk[k]?) ∧ OnlyChanges [.pc, .sp, .stk] s t) ∧
    (s.sp.val = 16 → ∃ t, exec (.callNnn nnn) s = .next t ∧ t.fault = some .stackOverflow ∧
      OnlyChanges [.fault] s t)

/-- R97, first law: a call and then a return leave `PC` after the call and `SP` as it was; besides `PC` only the
entry the call wrote, stale now (R25), can differ. `SP < 16` as the room left is decision D8, log entry 9. -/
def Obligations.CallThenRet : Prop :=
  ∀ (nnn : Addr12) (s : State), s.sp.val < 16 →
    ∃ t u, exec (.callNnn nnn) s = .next t ∧ exec .ret t = .next u ∧ u.pc = s.pc + 2 ∧ u.sp = s.sp ∧
      u.stk[s.sp.val]? = some (s.pc + 2) ∧ (∀ k, k ≠ s.sp.val → u.stk[k]? = s.stk[k]?) ∧
      OnlyChanges [.pc, .stk] s u

/-- R97, second law, with R152 and R185: from an empty stack, up to 16 nested calls succeed, and a call on the
full stack overflows. That `SP` counts the entries is decision D8, log entry 9; the latching is R156, log entry
5 (DEDUCED), decision D18. -/
def Obligations.SixteenNestedCalls : Prop :=
  ∀ (targets : List Addr12) (s : State), s.fault = none → s.sp.val = 0 → targets.length ≤ 16 →
    ∃ t, callEach targets s = .next t ∧ t.sp.val = targets.length ∧ t.fault = none ∧
      (targets.length = 16 → ∀ nnn, ∃ u, exec (.callNnn nnn) t = .next u ∧ u.fault = some .stackOverflow)

/-- R152, R153: an instruction raises `StackOverflow` iff it is a `CALL` with `SP = 16`, and `StackUnderflow` iff
it is a `RET` with `SP = 0`; and either is fatal: the core's next turn is that fault. `SP = 16` as the full stack
is decision D8, log entry 9; the latching and the outcome `fault` are log entry 5 (DEDUCED), R156, decision
D18. -/
def Obligations.StackFaultsAtTheBounds : Prop :=
  ∀ (i : Instr) (s t : State), s.fault = none → exec i s = .next t →
    (t.fault = some .stackOverflow ↔ (∃ nnn, i = .callNnn nnn) ∧ s.sp.val = 16) ∧
    (t.fault = some .stackUnderflow ↔ i = .ret ∧ s.sp.val = 0) ∧
    ∀ f, f = .stackOverflow ∨ f = .stackUnderflow → t.fault = some f → t.turn = .core → step t = .fault f

/-- R90, R91. -/
def Obligations.SkipsOnImmediate : Prop :=
  ∀ (x : Nibble) (kk : Byte) (s : State),
    (∃ t, exec (.seVxKk x kk) s = .next t ∧ t.pc = (if s.reg x = kk then s.pc + 4 else s.pc + 2) ∧
      OnlyChanges [.pc] s t) ∧
    ∃ t, exec (.sneVxKk x kk) s = .next t ∧ t.pc = (if s.reg x ≠ kk then s.pc + 4 else s.pc + 2) ∧
      OnlyChanges [.pc] s t

/-- R92, R93. -/
def Obligations.SkipsOnRegister : Prop :=
  ∀ (x y : Nibble) (s : State),
    (∃ t, exec (.seVxVy x y) s = .next t ∧ t.pc = (if s.reg x = s.reg y then s.pc + 4 else s.pc + 2) ∧
      OnlyChanges [.pc] s t) ∧
    ∃ t, exec (.sneVxVy x y) s = .next t ∧ t.pc = (if s.reg x ≠ s.reg y then s.pc + 4 else s.pc + 2) ∧
      OnlyChanges [.pc] s t

/-- R94: the bias register is `V[0]`, and the sum never wraps. -/
def Obligations.OffsetJumpAddsV0 : Prop :=
  ∀ (nnn : Addr12) (s : State), ∃ t, exec (.jpV0Nnn nnn) s = .next t ∧
    t.pc.toNat = nnn.toNat + (s.reg 0).toNat ∧ OnlyChanges [.pc] s t

/-! ### The ALU (41_alu.md) -/

/-- R102, R104. -/
def Obligations.LoadsWriteRegister : Prop :=
  ∀ (x y : Nibble) (kk : Byte) (s : State),
    (∃ t, exec (.ldVxKk x kk) s = .next t ∧ t.reg x = kk ∧ t.pc = s.pc + 2 ∧ OnlyRegs [x] s t ∧
      OnlyChanges [.pc, .regs] s t) ∧
    ∃ t, exec (.ldVxVy x y) s = .next t ∧ t.reg x = s.reg y ∧ t.pc = s.pc + 2 ∧ OnlyRegs [x] s t ∧
      OnlyChanges [.pc, .regs] s t

/-- R103: modulo 256; `V[15]` is unchanged unless it is the destination. -/
def Obligations.AddImmediateWraps : Prop :=
  ∀ (x : Nibble) (kk : Byte) (s : State), ∃ t, exec (.addVxKk x kk) s = .next t ∧
    (t.reg x).toNat = ((s.reg x).toNat + kk.toNat) % 256 ∧ t.pc = s.pc + 2 ∧ OnlyRegs [x] s t ∧
    OnlyChanges [.pc, .regs] s t

/-- R105, R106, R107, bit by bit; no flag. -/
def Obligations.LogicIsBitwise : Prop :=
  ∀ (x y : Nibble) (s : State),
    (∃ t, exec (.orVxVy x y) s = .next t ∧
      (∀ b, (t.reg x).getLsbD b = ((s.reg x).getLsbD b || (s.reg y).getLsbD b)) ∧ t.pc = s.pc + 2 ∧
      OnlyRegs [x] s t ∧ OnlyChanges [.pc, .regs] s t) ∧
    (∃ t, exec (.andVxVy x y) s = .next t ∧
      (∀ b, (t.reg x).getLsbD b = ((s.reg x).getLsbD b && (s.reg y).getLsbD b)) ∧ t.pc = s.pc + 2 ∧
      OnlyRegs [x] s t ∧ OnlyChanges [.pc, .regs] s t) ∧
    ∃ t, exec (.xorVxVy x y) s = .next t ∧
      (∀ b, (t.reg x).getLsbD b = ((s.reg x).getLsbD b ^^ (s.reg y).getLsbD b)) ∧ t.pc = s.pc + 2 ∧
      OnlyRegs [x] s t ∧ OnlyChanges [.pc, .regs] s t

/-- R108. Where `x` is 15 the flag wins: the spec's decision D7, log entry 7. -/
def Obligations.AddSetsCarry : Prop :=
  ∀ (x y : Nibble) (s : State), ∃ t, exec (.addVxVy x y) s = .next t ∧
    (x ≠ 15 → (t.reg x).toNat = ((s.reg x).toNat + (s.reg y).toNat) % 256) ∧
    (t.reg 15).toNat = (if 255 < (s.reg x).toNat + (s.reg y).toNat then 1 else 0) ∧
    t.pc = s.pc + 2 ∧ OnlyRegs [x, 15] s t ∧ OnlyChanges [.pc, .regs] s t

/-- R109: the flag is 1 iff the minuend `V[x]` is strictly greater (90_conflicts.md C1). Where `x` is 15 the
flag wins: decision D7, log entry 7. -/
def Obligations.SubSetsInverseBorrow : Prop :=
  ∀ (x y : Nibble) (s : State), ∃ t, exec (.subVxVy x y) s = .next t ∧
    (x ≠ 15 → ((t.reg x).toNat : Int) = ((s.reg x).toNat - (s.reg y).toNat : Int) % 256) ∧
    (t.reg 15).toNat = (if (s.reg x).toNat > (s.reg y).toNat then 1 else 0) ∧
    t.pc = s.pc + 2 ∧ OnlyRegs [x, 15] s t ∧ OnlyChanges [.pc, .regs] s t

/-- R111: the minuend is `V[y]`, the destination `V[x]`. Where `x` is 15 the flag wins: decision D7, log
entry 7. -/
def Obligations.SubnSetsInverseBorrow : Prop :=
  ∀ (x y : Nibble) (s : State), ∃ t, exec (.subnVxVy x y) s = .next t ∧
    (x ≠ 15 → ((t.reg x).toNat : Int) = ((s.reg y).toNat - (s.reg x).toNat : Int) % 256) ∧
    (t.reg 15).toNat = (if (s.reg y).toNat > (s.reg x).toNat then 1 else 0) ∧
    t.pc = s.pc + 2 ∧ OnlyRegs [x, 15] s t ∧ OnlyChanges [.pc, .regs] s t

/-- R110, R112, R68: `V[x]` is shifted in place by one, the flag is the bit shifted out, and neither the `y`
field nor `V[y]` plays a part. Where `x` is 15 the flag wins: decision D7, log entry 7. -/
def Obligations.ShiftsSetBitShiftedOut : Prop :=
  ∀ (x y : Nibble) (s : State),
    (∃ t, exec (.shrVx x y) s = .next t ∧ (x ≠ 15 → (t.reg x).toNat = (s.reg x).toNat / 2) ∧
      (t.reg 15).toNat = (s.reg x).toNat % 2 ∧ t.pc = s.pc + 2 ∧ OnlyRegs [x, 15] s t ∧
      OnlyChanges [.pc, .regs] s t) ∧
    ∃ t, exec (.shlVx x y) s = .next t ∧ (x ≠ 15 → (t.reg x).toNat = (s.reg x).toNat * 2 % 256) ∧
      (t.reg 15).toNat = (s.reg x).toNat / 128 ∧ t.pc = s.pc + 2 ∧ OnlyRegs [x, 15] s t ∧
      OnlyChanges [.pc, .regs] s t

/-! ### The display (42_display.md) -/

/-- R121. -/
def Obligations.ClsClearsEveryPixel : Prop :=
  ∀ s : State, ∃ t, exec .cls s = .next t ∧
    (∀ r c, t.fb.pixel r c = false) ∧ t.pc = s.pc + 2 ∧ OnlyChanges [.pc, .fb] s t

/-- R122, R124, R125: the pseudocode's two loops are the pixel-by-pixel law. A display pixel flips iff the
sprite has a 1 for it, and the flag is 1 iff such a pixel was set; out of range, only the latch changes. The
geometry and the fault are the spec's decisions D4, D24, D25 and D16, log entries 7 and 9; the latching is log
entry 5 (DEDUCED). -/
def Obligations.DrwXorsSprite : Prop :=
  ∀ (x y n : Nibble) (s : State),
    (n.toNat = 0 ∨ s.i.toNat + n.toNat - 1 < 4096 →
      ∃ t, exec (.drwVxVyN x y n) s = .next t ∧
        (∀ r c, r < 32 → c < 64 →
          (s.spriteSets x y n r c → t.fb.pixel r c = !s.fb.pixel r c) ∧
          (¬ s.spriteSets x y n r c → t.fb.pixel r c = s.fb.pixel r c)) ∧
        ((∃ r c, r < 32 ∧ c < 64 ∧ s.spriteSets x y n r c ∧ s.fb.pixel r c = true) → t.reg 15 = 1) ∧
        ((¬ ∃ r c, r < 32 ∧ c < 64 ∧ s.spriteSets x y n r c ∧ s.fb.pixel r c = true) → t.reg 15 = 0) ∧
        t.pc = s.pc + 2 ∧ OnlyRegs [15] s t ∧ OnlyChanges [.pc, .regs, .fb] s t) ∧
    (1 ≤ n.toNat ∧ 4096 ≤ s.i.toNat + n.toNat - 1 →
      ∃ t, exec (.drwVxVyN x y n) s = .next t ∧
        t.fault = some (.outOfRangeMemoryAccess (max s.i.toNat 4096)) ∧ OnlyChanges [.fault] s t)

/-- R127: drawing the same sprite again at the same position, with the sprite's bytes unchanged, restores the
display; and the second draw's flag is 1 iff after the first draw some 1 of the sprite lies on a set pixel
(90_conflicts.md C3). The bounds premise is R122's: the draws do not fault. -/
def Obligations.DrwTwiceRestoresDisplay : Prop :=
  ∀ (x y n : Nibble) (s t t' u : State), n.toNat = 0 ∨ s.i.toNat + n.toNat - 1 < 4096 →
    exec (.drwVxVyN x y n) s = .next t →
    t'.fb = t.fb → t'.i = s.i → t'.reg x = s.reg x → t'.reg y = s.reg y →
    (∀ k, k < n.toNat → t'.byteAt (s.i.toNat + k) = s.byteAt (s.i.toNat + k)) →
    exec (.drwVxVyN x y n) t' = .next u →
    u.fb = s.fb ∧
      (u.reg 15 = 1 ↔ ∃ r c, r < 32 ∧ c < 64 ∧ s.spriteSets x y n r c ∧ t.fb.pixel r c = true)

/-- R126 (a): `n = 0` draws nothing, checks no address and clears the flag (derived by the spec from R122). -/
def Obligations.DrwOfNoRows : Prop :=
  ∀ (x y : Nibble) (s : State), ∃ t, exec (.drwVxVyN x y 0) s = .next t ∧ t.reg 15 = 0 ∧
    t.pc = s.pc + 2 ∧ OnlyRegs [15] s t ∧ OnlyChanges [.pc, .regs] s t

/-! ### The address register and memory (43_address_memory.md) -/

/-- R130. -/
def Obligations.LdILoadsAddress : Prop :=
  ∀ (nnn : Addr12) (s : State), ∃ t, exec (.ldINnn nnn) s = .next t ∧ t.i.toNat = nnn.toNat ∧
    t.pc = s.pc + 2 ∧ OnlyChanges [.pc, .i] s t

/-- R131: `ADD I, Vx` is modulo 2^16 and writes no flag (decision D12, log entry 9). -/
def Obligations.AddIWrapsWithoutFlag : Prop :=
  ∀ (x : Nibble) (s : State), ∃ t, exec (.addIVx x) s = .next t ∧
    t.i.toNat = (s.i.toNat + (s.reg x).toNat) % 65536 ∧ t.pc = s.pc + 2 ∧ OnlyChanges [.pc, .i] s t

/-- R132: for every value of the two OPEN parameters (decision D13, log entry 6). -/
def Obligations.FontAddressOfDigit : Prop :=
  ∀ (x : Nibble) (s : State), ∃ t, exec (.ldFVx x) s = .next t ∧
    ((s.reg x).toNat ≤ 15 → t.i.toNat = Config.fontBase.val + 5 * (s.reg x).toNat) ∧
    (16 ≤ (s.reg x).toNat → t.i = Config.fontAddrHigh (s.reg x)) ∧
    t.pc = s.pc + 2 ∧ OnlyChanges [.pc, .i] s t

/-- R132, R133, R38: after `LD F, Vx` on a digit, in memory that lists nothing below `ENTRY`, the five bytes at
`I` are the digit's sprite, written out from R133, where the font is preloaded, else zeros (decisions D12, D13
and D27, log entries 4, 6 and 9). -/
def Obligations.FontSpriteAtI : Prop :=
  ∀ (x : Nibble) (s : State) (d : Byte) (sprite : List Byte),
    (d, sprite) ∈ ([
      (0, [0xF0, 0x90, 0x90, 0x90, 0xF0]), (1, [0x20, 0x60, 0x20, 0x20, 0x70]),
      (2, [0xF0, 0x10, 0xF0, 0x80, 0xF0]), (3, [0xF0, 0x10, 0xF0, 0x10, 0xF0]),
      (4, [0x90, 0x90, 0xF0, 0x10, 0x10]), (5, [0xF0, 0x80, 0xF0, 0x10, 0xF0]),
      (6, [0xF0, 0x80, 0xF0, 0x90, 0xF0]), (7, [0xF0, 0x10, 0x20, 0x40, 0x40]),
      (8, [0xF0, 0x90, 0xF0, 0x90, 0xF0]), (9, [0xF0, 0x90, 0xF0, 0x10, 0xF0]),
      (10, [0xF0, 0x90, 0xF0, 0x90, 0x90]), (11, [0xE0, 0x90, 0xE0, 0x90, 0xE0]),
      (12, [0xF0, 0x80, 0x80, 0x80, 0xF0]), (13, [0xE0, 0x90, 0x90, 0x90, 0xE0]),
      (14, [0xF0, 0x80, 0xF0, 0x80, 0xF0]), (15, [0xF0, 0x80, 0xF0, 0x80, 0x80])] : List (Byte × List Byte)) →
    s.reg x = d → (∀ c ∈ s.mem, 512 ≤ c.1) →
    ∃ t, exec (.ldFVx x) s = .next t ∧ ∀ (k : Nat) (b : Byte), sprite[k]? = some b →
      t.byteAt (t.i.toNat + k) = if Config.fontPreloaded then b else 0

/-- R134 in canonical memory: the digits are decimal digits of `V[x]`, hundreds lowest (decisions D15 and D16,
log entry 9). The latching is log entry 5 (DEDUCED). -/
def Obligations.DecimalStore : Prop :=
  ∀ (x : Nibble) (s : State), s.Inv →
    (s.i.toNat + 2 < 4096 → ∃ t, exec (.ldBVx x) s = .next t ∧
      100 * (t.byteAt s.i.toNat).toNat + 10 * (t.byteAt (s.i.toNat + 1)).toNat
        + (t.byteAt (s.i.toNat + 2)).toNat = (s.reg x).toNat ∧
      (t.byteAt (s.i.toNat + 1)).toNat < 10 ∧ (t.byteAt (s.i.toNat + 2)).toNat < 10 ∧
      OnlyBytes s.i.toNat 3 s t ∧ t.pc = s.pc + 2 ∧ OnlyChanges [.pc, .mem] s t) ∧
    (4096 ≤ s.i.toNat + 2 → ∃ t, exec (.ldBVx x) s = .next t ∧
      t.fault = some (.outOfRangeMemoryAccess (max s.i.toNat 4096)) ∧ OnlyChanges [.fault] s t)

/-- R135 in canonical memory: `I` is unchanged (decisions D14 and D16, log entries 7 and 9). The latching is log
entry 5 (DEDUCED). -/
def Obligations.BlockStore : Prop :=
  ∀ (x : Nibble) (s : State), s.Inv →
    (s.i.toNat + x.toNat < 4096 → ∃ t, exec (.ldMemVx x) s = .next t ∧
      (∀ r : Nibble, r.toNat ≤ x.toNat → t.byteAt (s.i.toNat + r.toNat) = s.reg r) ∧
      OnlyBytes s.i.toNat (x.toNat + 1) s t ∧ t.pc = s.pc + 2 ∧ OnlyChanges [.pc, .mem] s t) ∧
    (4096 ≤ s.i.toNat + x.toNat → ∃ t, exec (.ldMemVx x) s = .next t ∧
      t.fault = some (.outOfRangeMemoryAccess (max s.i.toNat 4096)) ∧ OnlyChanges [.fault] s t)

/-- R136: `I` is unchanged, registers above `V[x]` are unchanged (decisions D14 and D16, log entries 7 and
9). The latching is log entry 5 (DEDUCED). -/
def Obligations.BlockLoad : Prop :=
  ∀ (x : Nibble) (s : State),
    (s.i.toNat + x.toNat < 4096 → ∃ t, exec (.ldVxMem x) s = .next t ∧
      (∀ r : Nibble, r.toNat ≤ x.toNat → t.reg r = s.byteAt (s.i.toNat + r.toNat)) ∧
      (∀ r : Nibble, x.toNat < r.toNat → t.reg r = s.reg r) ∧
      t.pc = s.pc + 2 ∧ OnlyChanges [.pc, .regs] s t) ∧
    (4096 ≤ s.i.toNat + x.toNat → ∃ t, exec (.ldVxMem x) s = .next t ∧
      t.fault = some (.outOfRangeMemoryAccess (max s.i.toNat 4096)) ∧ OnlyChanges [.fault] s t)

/-- R55: the fetch after a block store over the next instruction sees the stored bytes, in canonical memory
(derived by the spec from R51 and R81; byte order D2, log entry 7). -/
def Obligations.FetchSeesStoredInstruction : Prop :=
  ∀ (x : Nibble) (s t : State), s.Inv → s.pc.toNat + 3 < 4096 → 1 ≤ x.toNat →
    s.i.toNat = s.pc.toNat + 2 → s.i.toNat + x.toNat < 4096 → exec (.ldMemVx x) s = .next t →
    ∃ w, t.fetch = .ok w ∧ w.toNat = 256 * (s.reg 0).toNat + (s.reg 1).toNat

/-! ### Random, keys and timers (44_timer_key_random.md, 60_exceptions.md R166) -/

/-- R140: one byte is drawn, from the substituted source while it has one, else a free byte, whatever its
value (decision D23, log entry 3). -/
def Obligations.RndMasksDrawnByte : Prop :=
  ∀ (x : Nibble) (kk : Byte) (s : State),
    (∀ b rest, s.source = b :: rest → ∃ t, exec (.rndVxKk x kk) s = .next t ∧ t.reg x = b &&& kk ∧
      t.source = rest ∧ t.pc = s.pc + 2 ∧ OnlyRegs [x] s t ∧ OnlyChanges [.pc, .regs, .source] s t) ∧
    (s.source = [] → ∃ t, exec (.rndVxKk x kk) s = .next t ∧ t.reg x = Config.freeByte s.draws &&& kk ∧
      t.draws = s.draws + 1 ∧ t.pc = s.pc + 2 ∧ OnlyRegs [x] s t ∧ OnlyChanges [.pc, .regs, .draws] s t)

/-- R141, R142: by the key's state for a number below 16; by a free answer above, whatever its value (decision
D20, log entry 3). -/
def Obligations.KeySkips : Prop :=
  ∀ (x : Nibble) (s : State),
    (∀ k : Fin 16, (s.reg x).toNat = k.val →
      (∃ t, exec (.skpVx x) s = .next t ∧ t.pc = (if s.keys[k] then s.pc + 4 else s.pc + 2) ∧
        OnlyChanges [.pc] s t) ∧
      ∃ t, exec (.sknpVx x) s = .next t ∧ t.pc = (if s.keys[k] then s.pc + 2 else s.pc + 4) ∧
        OnlyChanges [.pc] s t) ∧
    (16 ≤ (s.reg x).toNat →
      (∃ t, exec (.skpVx x) s = .next t ∧
        t.pc = (if Config.freeKey s.draws then s.pc + 4 else s.pc + 2) ∧ t.draws = s.draws + 1 ∧
        OnlyChanges [.pc, .draws] s t) ∧
      ∃ t, exec (.sknpVx x) s = .next t ∧
        t.pc = (if Config.freeKey s.draws then s.pc + 2 else s.pc + 4) ∧ t.draws = s.draws + 1 ∧
        OnlyChanges [.pc, .draws] s t)

/-- R144: the hold while no key is down; else a key that is down is reported, whichever it is (decision D21,
log entries 3 and 10). -/
def Obligations.KeyWaitHoldsThenReports : Prop :=
  ∀ (x : Nibble) (s : State),
    (s.noKeyDown → exec (.ldVxKey x) s = .next s) ∧
    (¬ s.noKeyDown → ∃ t, exec (.ldVxKey x) s = .next t ∧
      (∃ k : Fin 16, s.keys[k] = true ∧ (t.reg x).toNat = k.val) ∧
      t.pc = s.pc + 2 ∧ OnlyRegs [x] s t ∧ OnlyChanges [.pc, .regs, .draws] s t)

/-- R143, R145, R146. -/
def Obligations.TimerAccess : Prop :=
  ∀ (x : Nibble) (s : State),
    (∃ t, exec (.ldVxDt x) s = .next t ∧ t.reg x = s.dt ∧ t.pc = s.pc + 2 ∧ OnlyRegs [x] s t ∧
      OnlyChanges [.pc, .regs] s t) ∧
    (∃ t, exec (.ldDtVx x) s = .next t ∧ t.dt = s.reg x ∧ t.pc = s.pc + 2 ∧ OnlyChanges [.pc, .dt] s t) ∧
    ∃ t, exec (.ldStVx x) s = .next t ∧ t.st = s.reg x ∧ t.pc = s.pc + 2 ∧ OnlyChanges [.pc, .st] s t

/-- R166: a tick takes 1 from each timer that is not 0, also while the core is held or has failed; a timer at
0 stays at 0 (decision D22, log entry 1). -/
def Obligations.TickStopsAtZero : Prop :=
  ∀ s : State, s.turn = .tick → ∃ t, step s = .next t ∧ t.dt.toNat = s.dt.toNat - 1 ∧
    t.st.toNat = s.st.toNat - 1 ∧ OnlyChanges [.dt, .st, .turns] s t

/-- R32: the key-state provider sets any keys to any values and changes nothing else; and a step that is not the
provider's turn, the core's and the tick's alike, leaves every key as it was (decision D20, log entry 1). -/
def Obligations.OnlyProviderChangesKeys : Prop :=
  (∀ (s : State) (down : Keys), s.turn = .keys down → ∃ t, step s = .next t ∧ t.keys = down ∧
    OnlyChanges [.keys, .turns] s t) ∧
  ∀ s t : State, (∀ down, s.turn ≠ .keys down) → step s = .next t → t.keys = s.keys

/-- R52: after any step the delay timer is no greater than before, unless that step ran `LD DT, Vx`. -/
def Obligations.DelayTimerOnlyFalls : Prop :=
  ∀ s t : State, step s = .next t → t.dt.toNat ≤ s.dt.toNat ∨
    ∃ x, s.turn = .core ∧ s.instrAtPc = some (.ldDtVx x) ∧ t.dt = s.reg x

/-! ### The whole machine -/

/-- R13 "written by", R19, R29, R57: an instruction changes only the parts of the state the table lets it
write, and the fault latch where it raises a fault. -/
def Obligations.InstructionsWriteTheirParts : Prop :=
  ∀ (i : Instr) (s t : State), exec i s = .next t → OnlyChanges (.fault :: partsWritten i) s t

/-- R15, R16: a register other than the instruction's destinations is unchanged, but `V[15]` under the six
flag-writing instructions, and these leave 0 or 1 there where they raise no fault. -/
def Obligations.FlagIsTheOnlySideEffect : Prop :=
  ∀ (i : Instr) (s t : State), exec i s = .next t →
    (∀ r, isDestination r i = false → (setsFlag i = true → r ≠ 15) → t.reg r = s.reg r) ∧
    (setsFlag i = true → s.fault = none → t.fault = none → t.reg 15 = 0 ∨ t.reg 15 = 1)

/-- Every step keeps the canonical form of memory, from every state that has it (the model's own invariant,
over R26 and R45). -/
def Obligations.StepKeepsMemoryCanonical : Prop :=
  ∀ s t : State, s.Inv → step s = .next t → t.Inv

/-- R38, R176, R177, R178: the reset state with an image loaded. The numbers are the spec's decisions D3, D4,
D5 and D27, log entries 4, 7 and 8; the key state, which reset does not set, is not spoken of. -/
def Obligations.ResetWithImage : Prop :=
  ∀ image : List Byte, image.length ≤ 3584 → ∃ t, State.reset.load image = .next t ∧
    (∀ r, t.reg r = 0) ∧ t.i = 0 ∧ t.dt = 0 ∧ t.st = 0 ∧ t.sp.val = 0 ∧ t.pc = 0x200 ∧ t.fault = none ∧
    (∀ k, k < 16 → t.stk[k]? = some 0) ∧ (∀ r c, r < 32 → c < 64 → t.fb.pixel r c = false) ∧
    (∀ k, k < image.length → image[k]? = some (t.byteAt (512 + k))) ∧
    (∀ a, 512 + image.length ≤ a → t.byteAt a = 0) ∧
    (∀ a, a < 512 → a < Config.fontBase.val ∨ Config.fontBase.val + 80 ≤ a → t.byteAt a = 0) ∧
    (∀ k f, fontTable[k]? = some f →
      t.byteAt (Config.fontBase.val + k) = if Config.fontPreloaded then f else 0) ∧
    t.Inv

/-- R178: the launch premise. An image that does not fit is refused (decision D27, log entry 8). -/
def Obligations.LongImageIsRefused : Prop :=
  ∀ (s : State) (image : List Byte), 3584 < image.length →
    s.load image = .refused (.imageTooLong image.length)
end

