-- ==== Sys2Proof/Laws/Decode.lean ====
section
/-! SUPPORT. The fields of a word and the formats of R62 undo each other. -/

namespace Sys2Proof

theorem opField_formatA (op : Nibble) (nnn : Addr12) : opField (formatA op nnn) = op := by
  apply BitVec.eq_of_getLsbD_eq; intro i hi
  simp [opField, formatA, BitVec.getLsbD_extractLsb']; grind

theorem nnnField_formatA (op : Nibble) (nnn : Addr12) : nnnField (formatA op nnn) = nnn := by
  apply BitVec.eq_of_getLsbD_eq; intro i hi
  simp [nnnField, formatA, BitVec.getLsbD_extractLsb']; grind

theorem opField_formatXK (op x : Nibble) (kk : Byte) : opField (formatXK op x kk) = op := by
  apply BitVec.eq_of_getLsbD_eq; intro i hi
  simp [opField, formatXK, BitVec.getLsbD_extractLsb']; grind

theorem xField_formatXK (op x : Nibble) (kk : Byte) : xField (formatXK op x kk) = x := by
  apply BitVec.eq_of_getLsbD_eq; intro i hi
  simp [xField, formatXK, BitVec.getLsbD_extractLsb']; grind

theorem kkField_formatXK (op x : Nibble) (kk : Byte) : kkField (formatXK op x kk) = kk := by
  apply BitVec.eq_of_getLsbD_eq; intro i hi
  simp [kkField, formatXK, BitVec.getLsbD_extractLsb']; grind

theorem opField_formatXYN (op x y n : Nibble) : opField (formatXYN op x y n) = op := by
  apply BitVec.eq_of_getLsbD_eq; intro i hi
  simp [opField, formatXYN, BitVec.getLsbD_extractLsb']; grind

theorem xField_formatXYN (op x y n : Nibble) : xField (formatXYN op x y n) = x := by
  apply BitVec.eq_of_getLsbD_eq; intro i hi
  simp [xField, formatXYN, BitVec.getLsbD_extractLsb']; grind

theorem yField_formatXYN (op x y n : Nibble) : yField (formatXYN op x y n) = y := by
  apply BitVec.eq_of_getLsbD_eq; intro i hi
  simp [yField, formatXYN, BitVec.getLsbD_extractLsb']; grind

theorem nField_formatXYN (op x y n : Nibble) : nField (formatXYN op x y n) = n := by
  apply BitVec.eq_of_getLsbD_eq; intro i hi
  simp [nField, formatXYN, BitVec.getLsbD_extractLsb']; grind

theorem formatA_fields (w : Word) : formatA (opField w) (nnnField w) = w := by
  apply BitVec.eq_of_getLsbD_eq; intro i hi
  simp [opField, nnnField, formatA]; grind

theorem formatXK_fields (w : Word) : formatXK (opField w) (xField w) (kkField w) = w := by
  apply BitVec.eq_of_getLsbD_eq; intro i hi
  simp [opField, xField, kkField, formatXK]; grind

theorem formatXYN_fields (w : Word) : formatXYN (opField w) (xField w) (yField w) (nField w) = w := by
  apply BitVec.eq_of_getLsbD_eq; intro i hi
  simp [opField, xField, yField, nField, formatXYN]; grind

/-- Masking goes field by field. -/
theorem formatA_and (op m : Nibble) (nnn k : Addr12) :
    formatA op nnn &&& formatA m k = formatA (op &&& m) (nnn &&& k) := BitVec.and_append

/-- Masking goes field by field. -/
theorem formatXK_and (op x m mx : Nibble) (kk k : Byte) :
    formatXK op x kk &&& formatXK m mx k = formatXK (op &&& m) (x &&& mx) (kk &&& k) := by
  unfold formatXK; rw [BitVec.and_append, BitVec.and_append]

/-- Masking goes field by field. -/
theorem formatXYN_and (op x y n m mx my mn : Nibble) :
    formatXYN op x y n &&& formatXYN m mx my mn =
      formatXYN (op &&& m) (x &&& mx) (y &&& my) (n &&& mn) := by
  unfold formatXYN; rw [BitVec.and_append, BitVec.and_append, BitVec.and_append]

/-- Masking a word of format A to its class. -/
theorem formatA_mask_class (op : Nibble) (nnn : Addr12) : formatA op nnn &&& 0xF000 = formatA op 0 := by
  rw [show (0xF000 : Word) = formatA (BitVec.allOnes 4) 0 by decide, formatA_and, BitVec.and_allOnes]
  simp

/-- Masking a word of format XK to its class. -/
theorem formatXK_mask_class (op x : Nibble) (kk : Byte) : formatXK op x kk &&& 0xF000 = formatXK op 0 0 := by
  rw [show (0xF000 : Word) = formatXK (BitVec.allOnes 4) 0 0 by decide, formatXK_and, BitVec.and_allOnes]
  simp

/-- Masking a word of format X to its class and its bottom byte. -/
theorem formatXK_mask_byte (op x : Nibble) (kk : Byte) : formatXK op x kk &&& 0xF0FF = formatXK op 0 kk := by
  rw [show (0xF0FF : Word) = formatXK (BitVec.allOnes 4) 0 (BitVec.allOnes 8) by decide, formatXK_and,
    BitVec.and_allOnes, BitVec.and_allOnes]
  simp

/-- Masking a word of format XYN to its class. -/
theorem formatXYN_mask_class (op x y n : Nibble) : formatXYN op x y n &&& 0xF000 = formatXYN op 0 0 0 := by
  rw [show (0xF000 : Word) = formatXYN (BitVec.allOnes 4) 0 0 0 by decide, formatXYN_and, BitVec.and_allOnes]
  simp

/-- Masking a word of format XY to its class and its bottom nibble. -/
theorem formatXYN_mask_nibble (op x y n : Nibble) : formatXYN op x y n &&& 0xF00F = formatXYN op 0 0 n := by
  rw [show (0xF00F : Word) = formatXYN (BitVec.allOnes 4) 0 0 (BitVec.allOnes 4) by decide, formatXYN_and,
    BitVec.and_allOnes, BitVec.and_allOnes]
  simp

end Sys2Proof
end

