-- ==== Sys2Proof/Laws/Memory.lean ====
section
/-! SUPPORT. The laws of the memory list: read after write, writes leave every other address alone, and every
operation keeps the canonical form. -/

namespace Sys2Proof.Machine

@[simp] theorem Memory.read_nil (a : Nat) : Memory.read [] a = unlistedByte a := rfl

/-- A write leaves every other address alone. -/
theorem Memory.read_write_of_ne (m : Memory) {a a' : Nat} (b : Byte) (h : a' ≠ a) :
    (m.write a b).read a' = m.read a' := by
  induction m with
  | nil => unfold Memory.write; split <;> simp [Memory.read, h.symm]
  | cons c m ih =>
    obtain ⟨k, c⟩ := c
    unfold Memory.write
    split
    · split <;> simp [Memory.read, h.symm]
    · split
      · next hk => subst hk; split <;> simp [Memory.read, h.symm]
      · simp only [Memory.read, ih]

/-- Above the addresses a rising list holds, everything reads as unlisted. -/
theorem Memory.read_of_above {m : Memory} {k a : Nat} (hm : Memory.above k m = true) (h : a ≤ k) :
    m.read a = unlistedByte a := by
  induction m generalizing k with
  | nil => rfl
  | cons c m ih =>
    obtain ⟨j, c⟩ := c
    simp only [Memory.above, Bool.and_eq_true, decide_eq_true_eq] at hm
    have hne : j ≠ a := by omega
    simp only [Memory.read, hne, if_false]
    exact ih hm.2 (by omega)

/-- The rising-address half of the canonical form. -/
def Memory.rising : Memory → Prop
  | [] => True
  | (k, _) :: m => Memory.above k m = true

theorem Memory.wf_iff (m : Memory) :
    m.wf = true ↔ Memory.rising m ∧ ∀ c ∈ m, c.1 < Config.memSize ∧ c.2 ≠ unlistedByte c.1 := by
  cases m with
  | nil => simp [Memory.wf, Memory.rising]
  | cons c m => simp [Memory.wf, Memory.rising]

theorem Memory.rising_of_above {m : Memory} {k : Nat} (h : Memory.above k m = true) : Memory.rising m := by
  cases m with
  | nil => trivial
  | cons c m =>
    simp only [Memory.above, Bool.and_eq_true] at h
    exact h.2

theorem Memory.above_mono {m : Memory} {j k : Nat} (hjk : j ≤ k) (h : Memory.above k m = true) :
    Memory.above j m = true := by
  cases m with
  | nil => rfl
  | cons c m =>
    simp only [Memory.above, Bool.and_eq_true, decide_eq_true_eq] at h ⊢
    exact ⟨by omega, h.2⟩

/-- Read after write at the same address, in rising memory. -/
theorem Memory.read_write_self_of_rising {m : Memory} (hm : Memory.rising m) (a : Nat) (b : Byte) :
    (m.write a b).read a = b := by
  induction m with
  | nil => unfold Memory.write; split <;> simp_all [Memory.read]
  | cons c m ih =>
    obtain ⟨k, c⟩ := c
    have hab : Memory.above k m = true := hm
    unfold Memory.write
    split
    · next hlt =>
      have hne : k ≠ a := by omega
      split
      · next hb => simp [Memory.read, hne, hb, Memory.read_of_above hab (Nat.le_of_lt hlt)]
      · simp [Memory.read]
    · split
      · next hk =>
        subst hk
        split
        · next hb => rw [hb]; exact Memory.read_of_above hab (Nat.le_refl _)
        · simp [Memory.read]
      · next hk =>
        have hne : k ≠ a := fun e => hk e.symm
        simp only [Memory.read, hne, if_false]
        exact ih (Memory.rising_of_above hab)

/-- Read after write at the same address (20_memory.md R51). -/
theorem Memory.read_write_self {m : Memory} (hm : m.wf = true) (a : Nat) (b : Byte) :
    (m.write a b).read a = b :=
  Memory.read_write_self_of_rising ((Memory.wf_iff m).1 hm).1 a b

theorem Memory.above_write {m : Memory} {j a : Nat} (b : Byte) (hm : Memory.above j m = true) (h : j < a) :
    Memory.above j (m.write a b) = true := by
  induction m generalizing j with
  | nil => unfold Memory.write; split <;> simp [Memory.above, h]
  | cons c m ih =>
    obtain ⟨k, c⟩ := c
    simp only [Memory.above, Bool.and_eq_true, decide_eq_true_eq] at hm
    unfold Memory.write
    split
    · next hlt => split <;> simp [Memory.above, h, hm.1, hm.2, hlt]
    · split
      · next hk =>
        subst hk
        split
        · exact Memory.above_mono (Nat.le_of_lt h) hm.2
        · simp [Memory.above, h, hm.2]
      · next h1 h2 =>
        simp only [Memory.above, Bool.and_eq_true, decide_eq_true_eq]
        exact ⟨hm.1, ih hm.2 (by omega)⟩

theorem Memory.rising_write {m : Memory} (a : Nat) (b : Byte) (hm : Memory.rising m) :
    Memory.rising (m.write a b) := by
  cases m with
  | nil => unfold Memory.write; split <;> simp [Memory.rising, Memory.above]
  | cons c m =>
    obtain ⟨k, c⟩ := c
    have hab : Memory.above k m = true := hm
    unfold Memory.write
    split
    · next hlt => split <;> simp [Memory.rising, Memory.above, hab, hlt]
    · split
      · next hk =>
        subst hk
        split
        · exact Memory.rising_of_above hab
        · exact hab
      · next h1 h2 => exact Memory.above_write b hab (by omega)

theorem Memory.mem_write {m : Memory} {a : Nat} {b : Byte} {c : Host.Cell} (h : c ∈ m.write a b) :
    c ∈ m ∨ (c = (a, b) ∧ b ≠ unlistedByte a) := by
  induction m with
  | nil => unfold Memory.write at h; split at h <;> simp_all
  | cons d m ih =>
    obtain ⟨k, d⟩ := d
    unfold Memory.write at h
    split at h
    · split at h
      · exact .inl h
      · next hb =>
        rcases List.mem_cons.1 h with h | h
        · exact .inr ⟨h, hb⟩
        · exact .inl h
    · split at h
      · split at h
        · exact .inl (List.mem_cons_of_mem _ h)
        · next hb =>
          rcases List.mem_cons.1 h with h | h
          · exact .inr ⟨h, hb⟩
          · exact .inl (List.mem_cons_of_mem _ h)
      · rcases List.mem_cons.1 h with h | h
        · exact .inl (h ▸ List.mem_cons_self)
        · rcases ih h with h | h
          · exact .inl (List.mem_cons_of_mem _ h)
          · exact .inr h

/-- A write inside the address space keeps the canonical form. -/
theorem Memory.wf_write {m : Memory} {a : Nat} (b : Byte) (hm : m.wf = true) (ha : a < Config.memSize) :
    (m.write a b).wf = true := by
  rw [Memory.wf_iff] at hm ⊢
  refine ⟨Memory.rising_write a b hm.1, fun c hc => ?_⟩
  rcases Memory.mem_write hc with h | ⟨rfl, hb⟩
  · exact hm.2 c h
  · exact ⟨ha, hb⟩

/-- A run of writes inside the address space keeps the canonical form. -/
theorem Memory.wf_writeRun {m : Memory} {a : Nat} {bs : List Byte} (hm : m.wf = true)
    (ha : bs = [] ∨ a + bs.length ≤ Config.memSize) : (m.writeRun a bs).wf = true := by
  induction bs generalizing m a with
  | nil => exact hm
  | cons b bs ih =>
    have hlen : a + (bs.length + 1) ≤ Config.memSize := by
      rcases ha with h | h
      · exact absurd h (by simp)
      · simpa using h
    have hlt : a < Config.memSize := Nat.lt_of_lt_of_le (by omega) hlen
    refine ih (Memory.wf_write b hm hlt) (.inr ?_)
    omega

/-- A run of writes leaves every address outside the run alone. -/
theorem Memory.read_writeRun_of_outside (m : Memory) {a a' : Nat} (bs : List Byte)
    (h : a' < a ∨ a + bs.length ≤ a') : (m.writeRun a bs).read a' = m.read a' := by
  induction bs generalizing m a with
  | nil => rfl
  | cons b bs ih =>
    simp only [List.length_cons] at h
    show (Memory.writeRun (m.write a b) (a + 1) bs).read a' = _
    rw [ih (m.write a b) (by omega)]
    exact Memory.read_write_of_ne m b (by omega)

theorem Memory.rising_writeRun {m : Memory} (a : Nat) (bs : List Byte) (hm : Memory.rising m) :
    Memory.rising (m.writeRun a bs) := by
  induction bs generalizing m a with
  | nil => exact hm
  | cons b bs ih => exact ih (a + 1) (Memory.rising_write a b hm)

/-- Byte `k` of a run reads back at address `a + k`. -/
theorem Memory.read_writeRun_of_lt {m : Memory} (hm : m.wf = true) (a : Nat) (bs : List Byte) {k : Nat}
    (hk : k < bs.length) : (m.writeRun a bs).read (a + k) = bs[k] := by
  have hr : Memory.rising m := ((Memory.wf_iff m).1 hm).1
  clear hm
  induction bs generalizing m a k with
  | nil => simp at hk
  | cons b bs ih =>
    show (Memory.writeRun (m.write a b) (a + 1) bs).read (a + k) = _
    cases k with
    | zero =>
      rw [Memory.read_writeRun_of_outside _ _ (by omega)]
      simpa using Memory.read_write_self_of_rising hr a b
    | succ k =>
      have := ih (m := m.write a b) (a + 1) (k := k) (by simpa using hk) (Memory.rising_write a b hr)
      simpa [Nat.add_assoc, Nat.add_comm 1 k] using this

end Sys2Proof.Machine
end

