-- ==== Sys2Proof/Laws/State.lean ====
section
/-! SUPPORT. One lemma per field per update of the state, so that no later proof unfolds a record update, and
what a register reads as after each update. -/

namespace Sys2Proof.Machine

/-! ### `setReg` -/

@[simp] theorem State.setReg_v (s : State) (x : Nibble) (b : Byte) : (s.setReg x b).v = s.v.set x.toNat b x.isLt := rfl
@[simp] theorem State.setReg_i (s : State) (x : Nibble) (b : Byte) : (s.setReg x b).i = s.i := rfl
@[simp] theorem State.setReg_dt (s : State) (x : Nibble) (b : Byte) : (s.setReg x b).dt = s.dt := rfl
@[simp] theorem State.setReg_st (s : State) (x : Nibble) (b : Byte) : (s.setReg x b).st = s.st := rfl
@[simp] theorem State.setReg_pc (s : State) (x : Nibble) (b : Byte) : (s.setReg x b).pc = s.pc := rfl
@[simp] theorem State.setReg_sp (s : State) (x : Nibble) (b : Byte) : (s.setReg x b).sp = s.sp := rfl
@[simp] theorem State.setReg_stk (s : State) (x : Nibble) (b : Byte) : (s.setReg x b).stk = s.stk := rfl
@[simp] theorem State.setReg_mem (s : State) (x : Nibble) (b : Byte) : (s.setReg x b).mem = s.mem := rfl
@[simp] theorem State.setReg_fb (s : State) (x : Nibble) (b : Byte) : (s.setReg x b).fb = s.fb := rfl
@[simp] theorem State.setReg_fault (s : State) (x : Nibble) (b : Byte) : (s.setReg x b).fault = s.fault := rfl
@[simp] theorem State.setReg_keys (s : State) (x : Nibble) (b : Byte) : (s.setReg x b).keys = s.keys := rfl
@[simp] theorem State.setReg_turns (s : State) (x : Nibble) (b : Byte) : (s.setReg x b).turns = s.turns := rfl
@[simp] theorem State.setReg_draws (s : State) (x : Nibble) (b : Byte) : (s.setReg x b).draws = s.draws := rfl
@[simp] theorem State.setReg_source (s : State) (x : Nibble) (b : Byte) : (s.setReg x b).source = s.source := rfl

/-! ### `setI` -/

@[simp] theorem State.setI_v (s : State) (w : Word) : (s.setI w).v = s.v := rfl
@[simp] theorem State.setI_i (s : State) (w : Word) : (s.setI w).i = w := rfl
@[simp] theorem State.setI_dt (s : State) (w : Word) : (s.setI w).dt = s.dt := rfl
@[simp] theorem State.setI_st (s : State) (w : Word) : (s.setI w).st = s.st := rfl
@[simp] theorem State.setI_pc (s : State) (w : Word) : (s.setI w).pc = s.pc := rfl
@[simp] theorem State.setI_sp (s : State) (w : Word) : (s.setI w).sp = s.sp := rfl
@[simp] theorem State.setI_stk (s : State) (w : Word) : (s.setI w).stk = s.stk := rfl
@[simp] theorem State.setI_mem (s : State) (w : Word) : (s.setI w).mem = s.mem := rfl
@[simp] theorem State.setI_fb (s : State) (w : Word) : (s.setI w).fb = s.fb := rfl
@[simp] theorem State.setI_fault (s : State) (w : Word) : (s.setI w).fault = s.fault := rfl
@[simp] theorem State.setI_keys (s : State) (w : Word) : (s.setI w).keys = s.keys := rfl
@[simp] theorem State.setI_turns (s : State) (w : Word) : (s.setI w).turns = s.turns := rfl
@[simp] theorem State.setI_draws (s : State) (w : Word) : (s.setI w).draws = s.draws := rfl
@[simp] theorem State.setI_source (s : State) (w : Word) : (s.setI w).source = s.source := rfl

/-! ### `setDt` -/

@[simp] theorem State.setDt_v (s : State) (b : Byte) : (s.setDt b).v = s.v := rfl
@[simp] theorem State.setDt_i (s : State) (b : Byte) : (s.setDt b).i = s.i := rfl
@[simp] theorem State.setDt_dt (s : State) (b : Byte) : (s.setDt b).dt = b := rfl
@[simp] theorem State.setDt_st (s : State) (b : Byte) : (s.setDt b).st = s.st := rfl
@[simp] theorem State.setDt_pc (s : State) (b : Byte) : (s.setDt b).pc = s.pc := rfl
@[simp] theorem State.setDt_sp (s : State) (b : Byte) : (s.setDt b).sp = s.sp := rfl
@[simp] theorem State.setDt_stk (s : State) (b : Byte) : (s.setDt b).stk = s.stk := rfl
@[simp] theorem State.setDt_mem (s : State) (b : Byte) : (s.setDt b).mem = s.mem := rfl
@[simp] theorem State.setDt_fb (s : State) (b : Byte) : (s.setDt b).fb = s.fb := rfl
@[simp] theorem State.setDt_fault (s : State) (b : Byte) : (s.setDt b).fault = s.fault := rfl
@[simp] theorem State.setDt_keys (s : State) (b : Byte) : (s.setDt b).keys = s.keys := rfl
@[simp] theorem State.setDt_turns (s : State) (b : Byte) : (s.setDt b).turns = s.turns := rfl
@[simp] theorem State.setDt_draws (s : State) (b : Byte) : (s.setDt b).draws = s.draws := rfl
@[simp] theorem State.setDt_source (s : State) (b : Byte) : (s.setDt b).source = s.source := rfl

/-! ### `setSt` -/

@[simp] theorem State.setSt_v (s : State) (b : Byte) : (s.setSt b).v = s.v := rfl
@[simp] theorem State.setSt_i (s : State) (b : Byte) : (s.setSt b).i = s.i := rfl
@[simp] theorem State.setSt_dt (s : State) (b : Byte) : (s.setSt b).dt = s.dt := rfl
@[simp] theorem State.setSt_st (s : State) (b : Byte) : (s.setSt b).st = b := rfl
@[simp] theorem State.setSt_pc (s : State) (b : Byte) : (s.setSt b).pc = s.pc := rfl
@[simp] theorem State.setSt_sp (s : State) (b : Byte) : (s.setSt b).sp = s.sp := rfl
@[simp] theorem State.setSt_stk (s : State) (b : Byte) : (s.setSt b).stk = s.stk := rfl
@[simp] theorem State.setSt_mem (s : State) (b : Byte) : (s.setSt b).mem = s.mem := rfl
@[simp] theorem State.setSt_fb (s : State) (b : Byte) : (s.setSt b).fb = s.fb := rfl
@[simp] theorem State.setSt_fault (s : State) (b : Byte) : (s.setSt b).fault = s.fault := rfl
@[simp] theorem State.setSt_keys (s : State) (b : Byte) : (s.setSt b).keys = s.keys := rfl
@[simp] theorem State.setSt_turns (s : State) (b : Byte) : (s.setSt b).turns = s.turns := rfl
@[simp] theorem State.setSt_draws (s : State) (b : Byte) : (s.setSt b).draws = s.draws := rfl
@[simp] theorem State.setSt_source (s : State) (b : Byte) : (s.setSt b).source = s.source := rfl

/-! ### `raise` -/

@[simp] theorem State.raise_v (s : State) (f : Fault) : (s.raise f).v = s.v := rfl
@[simp] theorem State.raise_i (s : State) (f : Fault) : (s.raise f).i = s.i := rfl
@[simp] theorem State.raise_dt (s : State) (f : Fault) : (s.raise f).dt = s.dt := rfl
@[simp] theorem State.raise_st (s : State) (f : Fault) : (s.raise f).st = s.st := rfl
@[simp] theorem State.raise_pc (s : State) (f : Fault) : (s.raise f).pc = s.pc := rfl
@[simp] theorem State.raise_sp (s : State) (f : Fault) : (s.raise f).sp = s.sp := rfl
@[simp] theorem State.raise_stk (s : State) (f : Fault) : (s.raise f).stk = s.stk := rfl
@[simp] theorem State.raise_mem (s : State) (f : Fault) : (s.raise f).mem = s.mem := rfl
@[simp] theorem State.raise_fb (s : State) (f : Fault) : (s.raise f).fb = s.fb := rfl
@[simp] theorem State.raise_fault (s : State) (f : Fault) : (s.raise f).fault = some f := rfl
@[simp] theorem State.raise_keys (s : State) (f : Fault) : (s.raise f).keys = s.keys := rfl
@[simp] theorem State.raise_turns (s : State) (f : Fault) : (s.raise f).turns = s.turns := rfl
@[simp] theorem State.raise_draws (s : State) (f : Fault) : (s.raise f).draws = s.draws := rfl
@[simp] theorem State.raise_source (s : State) (f : Fault) : (s.raise f).source = s.source := rfl

/-! ### `apply` -/

@[simp] theorem State.apply_v (s : State) (d : Directive) : (s.apply d).v = s.v := by cases d <;> rfl
@[simp] theorem State.apply_i (s : State) (d : Directive) : (s.apply d).i = s.i := by cases d <;> rfl
@[simp] theorem State.apply_dt (s : State) (d : Directive) : (s.apply d).dt = s.dt := by cases d <;> rfl
@[simp] theorem State.apply_st (s : State) (d : Directive) : (s.apply d).st = s.st := by cases d <;> rfl
@[simp] theorem State.apply_sp (s : State) (d : Directive) : (s.apply d).sp = s.sp := by cases d <;> rfl
@[simp] theorem State.apply_stk (s : State) (d : Directive) : (s.apply d).stk = s.stk := by cases d <;> rfl
@[simp] theorem State.apply_mem (s : State) (d : Directive) : (s.apply d).mem = s.mem := by cases d <;> rfl
@[simp] theorem State.apply_fb (s : State) (d : Directive) : (s.apply d).fb = s.fb := by cases d <;> rfl
@[simp] theorem State.apply_fault (s : State) (d : Directive) : (s.apply d).fault = s.fault := by cases d <;> rfl
@[simp] theorem State.apply_keys (s : State) (d : Directive) : (s.apply d).keys = s.keys := by cases d <;> rfl
@[simp] theorem State.apply_turns (s : State) (d : Directive) : (s.apply d).turns = s.turns := by cases d <;> rfl
@[simp] theorem State.apply_draws (s : State) (d : Directive) : (s.apply d).draws = s.draws := by cases d <;> rfl
@[simp] theorem State.apply_source (s : State) (d : Directive) : (s.apply d).source = s.source := by cases d <;> rfl

/-! ### `tick` -/

@[simp] theorem State.tick_v (s : State) : (s.tick).v = s.v := rfl
@[simp] theorem State.tick_i (s : State) : (s.tick).i = s.i := rfl
@[simp] theorem State.tick_dt (s : State) : (s.tick).dt = tickTimer s.dt := rfl
@[simp] theorem State.tick_st (s : State) : (s.tick).st = tickTimer s.st := rfl
@[simp] theorem State.tick_pc (s : State) : (s.tick).pc = s.pc := rfl
@[simp] theorem State.tick_sp (s : State) : (s.tick).sp = s.sp := rfl
@[simp] theorem State.tick_stk (s : State) : (s.tick).stk = s.stk := rfl
@[simp] theorem State.tick_mem (s : State) : (s.tick).mem = s.mem := rfl
@[simp] theorem State.tick_fb (s : State) : (s.tick).fb = s.fb := rfl
@[simp] theorem State.tick_fault (s : State) : (s.tick).fault = s.fault := rfl
@[simp] theorem State.tick_keys (s : State) : (s.tick).keys = s.keys := rfl
@[simp] theorem State.tick_turns (s : State) : (s.tick).turns = s.turns := rfl
@[simp] theorem State.tick_draws (s : State) : (s.tick).draws = s.draws := rfl
@[simp] theorem State.tick_source (s : State) : (s.tick).source = s.source := rfl

/-! ### `setKeys` -/

@[simp] theorem State.setKeys_v (s : State) (down : Keys) : (s.setKeys down).v = s.v := rfl
@[simp] theorem State.setKeys_i (s : State) (down : Keys) : (s.setKeys down).i = s.i := rfl
@[simp] theorem State.setKeys_dt (s : State) (down : Keys) : (s.setKeys down).dt = s.dt := rfl
@[simp] theorem State.setKeys_st (s : State) (down : Keys) : (s.setKeys down).st = s.st := rfl
@[simp] theorem State.setKeys_pc (s : State) (down : Keys) : (s.setKeys down).pc = s.pc := rfl
@[simp] theorem State.setKeys_sp (s : State) (down : Keys) : (s.setKeys down).sp = s.sp := rfl
@[simp] theorem State.setKeys_stk (s : State) (down : Keys) : (s.setKeys down).stk = s.stk := rfl
@[simp] theorem State.setKeys_mem (s : State) (down : Keys) : (s.setKeys down).mem = s.mem := rfl
@[simp] theorem State.setKeys_fb (s : State) (down : Keys) : (s.setKeys down).fb = s.fb := rfl
@[simp] theorem State.setKeys_fault (s : State) (down : Keys) : (s.setKeys down).fault = s.fault := rfl
@[simp] theorem State.setKeys_keys (s : State) (down : Keys) : (s.setKeys down).keys = down := rfl
@[simp] theorem State.setKeys_turns (s : State) (down : Keys) : (s.setKeys down).turns = s.turns := rfl
@[simp] theorem State.setKeys_draws (s : State) (down : Keys) : (s.setKeys down).draws = s.draws := rfl
@[simp] theorem State.setKeys_source (s : State) (down : Keys) : (s.setKeys down).source = s.source := rfl

/-! ### `popTurn` -/

@[simp] theorem State.popTurn_v (s : State) : (s.popTurn).v = s.v := rfl
@[simp] theorem State.popTurn_i (s : State) : (s.popTurn).i = s.i := rfl
@[simp] theorem State.popTurn_dt (s : State) : (s.popTurn).dt = s.dt := rfl
@[simp] theorem State.popTurn_st (s : State) : (s.popTurn).st = s.st := rfl
@[simp] theorem State.popTurn_pc (s : State) : (s.popTurn).pc = s.pc := rfl
@[simp] theorem State.popTurn_sp (s : State) : (s.popTurn).sp = s.sp := rfl
@[simp] theorem State.popTurn_stk (s : State) : (s.popTurn).stk = s.stk := rfl
@[simp] theorem State.popTurn_mem (s : State) : (s.popTurn).mem = s.mem := rfl
@[simp] theorem State.popTurn_fb (s : State) : (s.popTurn).fb = s.fb := rfl
@[simp] theorem State.popTurn_fault (s : State) : (s.popTurn).fault = s.fault := rfl
@[simp] theorem State.popTurn_keys (s : State) : (s.popTurn).keys = s.keys := rfl
@[simp] theorem State.popTurn_turns (s : State) : (s.popTurn).turns = s.turns.tail := rfl
@[simp] theorem State.popTurn_draws (s : State) : (s.popTurn).draws = s.draws := rfl
@[simp] theorem State.popTurn_source (s : State) : (s.popTurn).source = s.source := rfl

/-! ### `setFlag` -/

@[simp] theorem State.setFlag_i (s : State) (f : Bool) : (s.setFlag f).i = s.i := rfl
@[simp] theorem State.setFlag_dt (s : State) (f : Bool) : (s.setFlag f).dt = s.dt := rfl
@[simp] theorem State.setFlag_st (s : State) (f : Bool) : (s.setFlag f).st = s.st := rfl
@[simp] theorem State.setFlag_pc (s : State) (f : Bool) : (s.setFlag f).pc = s.pc := rfl
@[simp] theorem State.setFlag_sp (s : State) (f : Bool) : (s.setFlag f).sp = s.sp := rfl
@[simp] theorem State.setFlag_stk (s : State) (f : Bool) : (s.setFlag f).stk = s.stk := rfl
@[simp] theorem State.setFlag_mem (s : State) (f : Bool) : (s.setFlag f).mem = s.mem := rfl
@[simp] theorem State.setFlag_fb (s : State) (f : Bool) : (s.setFlag f).fb = s.fb := rfl
@[simp] theorem State.setFlag_fault (s : State) (f : Bool) : (s.setFlag f).fault = s.fault := rfl
@[simp] theorem State.setFlag_keys (s : State) (f : Bool) : (s.setFlag f).keys = s.keys := rfl
@[simp] theorem State.setFlag_turns (s : State) (f : Bool) : (s.setFlag f).turns = s.turns := rfl
@[simp] theorem State.setFlag_draws (s : State) (f : Bool) : (s.setFlag f).draws = s.draws := rfl
@[simp] theorem State.setFlag_source (s : State) (f : Bool) : (s.setFlag f).source = s.source := rfl

/-! ### `setResultFlag` -/

@[simp] theorem State.setResultFlag_i (s : State) (x : Nibble) (b : Byte) (f : Bool) : (s.setResultFlag x b f).i = s.i := rfl
@[simp] theorem State.setResultFlag_dt (s : State) (x : Nibble) (b : Byte) (f : Bool) : (s.setResultFlag x b f).dt = s.dt := rfl
@[simp] theorem State.setResultFlag_st (s : State) (x : Nibble) (b : Byte) (f : Bool) : (s.setResultFlag x b f).st = s.st := rfl
@[simp] theorem State.setResultFlag_pc (s : State) (x : Nibble) (b : Byte) (f : Bool) : (s.setResultFlag x b f).pc = s.pc := rfl
@[simp] theorem State.setResultFlag_sp (s : State) (x : Nibble) (b : Byte) (f : Bool) : (s.setResultFlag x b f).sp = s.sp := rfl
@[simp] theorem State.setResultFlag_stk (s : State) (x : Nibble) (b : Byte) (f : Bool) : (s.setResultFlag x b f).stk = s.stk := rfl
@[simp] theorem State.setResultFlag_mem (s : State) (x : Nibble) (b : Byte) (f : Bool) : (s.setResultFlag x b f).mem = s.mem := rfl
@[simp] theorem State.setResultFlag_fb (s : State) (x : Nibble) (b : Byte) (f : Bool) : (s.setResultFlag x b f).fb = s.fb := rfl
@[simp] theorem State.setResultFlag_fault (s : State) (x : Nibble) (b : Byte) (f : Bool) : (s.setResultFlag x b f).fault = s.fault := rfl
@[simp] theorem State.setResultFlag_keys (s : State) (x : Nibble) (b : Byte) (f : Bool) : (s.setResultFlag x b f).keys = s.keys := rfl
@[simp] theorem State.setResultFlag_turns (s : State) (x : Nibble) (b : Byte) (f : Bool) : (s.setResultFlag x b f).turns = s.turns := rfl
@[simp] theorem State.setResultFlag_draws (s : State) (x : Nibble) (b : Byte) (f : Bool) : (s.setResultFlag x b f).draws = s.draws := rfl
@[simp] theorem State.setResultFlag_source (s : State) (x : Nibble) (b : Byte) (f : Bool) : (s.setResultFlag x b f).source = s.source := rfl

/-! ### `apply` on each directive -/

@[simp] theorem State.apply_advance_pc (s : State) : (s.apply .advance).pc = s.pc + 2 := rfl
@[simp] theorem State.apply_skip_pc (s : State) : (s.apply .skip).pc = s.pc + 4 := rfl
@[simp] theorem State.apply_jump_pc (s : State) (a : Word) : (s.apply (.jump a)).pc = a := rfl

theorem State.apply_skipIf_pc (s : State) (c : Bool) :
    (s.apply (skipIf c)).pc = if c then s.pc + 4 else s.pc + 2 := by
  cases c <;> rfl

/-! ### Registers -/

/-- A register after a register write: the written value, or what it held. -/
theorem State.reg_setReg (s : State) (x r : Nibble) (b : Byte) :
    (s.setReg x b).reg r = if r = x then b else s.reg r := by
  unfold State.reg State.setReg
  by_cases h : r = x
  · subst h; simp
  · have hne : x.toNat ≠ r.toNat := fun e => h (BitVec.eq_of_toNat_eq e.symm)
    simp [h, hne]

@[simp] theorem State.reg_setReg_self (s : State) (x : Nibble) (b : Byte) : (s.setReg x b).reg x = b := by
  simp [State.reg_setReg]

theorem State.reg_setReg_of_ne (s : State) {x r : Nibble} (b : Byte) (h : r ≠ x) :
    (s.setReg x b).reg r = s.reg r := by
  simp [State.reg_setReg, h]

theorem State.reg_setFlag (s : State) (f : Bool) (r : Nibble) :
    (s.setFlag f).reg r = if r = 15#4 then flagByte f else s.reg r :=
  State.reg_setReg s vf r (flagByte f)

/-- A register after a result and a flag: the flag is written last, so `V[15]` holds it (R17). -/
theorem State.reg_setResultFlag (s : State) (x r : Nibble) (b : Byte) (f : Bool) :
    (s.setResultFlag x b f).reg r = if r = 15#4 then flagByte f else if r = x then b else s.reg r := by
  show ((s.setReg x b).setFlag f).reg r = _
  rw [State.reg_setFlag, State.reg_setReg]

/-- Two states with the same register file read the same registers. -/
theorem State.reg_congr {s t : State} (h : t.v = s.v) (r : Nibble) : t.reg r = s.reg r := by
  simp [State.reg, h]

/-- Two states with the same memory read the same bytes. -/
theorem State.byteAt_congr {s t : State} (h : t.mem = s.mem) (a : Nat) : t.byteAt a = s.byteAt a := by
  simp [State.byteAt, h]

@[simp] theorem State.byteAt_setReg (s : State) (x : Nibble) (b : Byte) (a : Nat) : (s.setReg x b).byteAt a = s.byteAt a := State.byteAt_congr (by simp) a
@[simp] theorem State.reg_setI (s : State) (w : Word) (r : Nibble) : (s.setI w).reg r = s.reg r := State.reg_congr (by simp) r
@[simp] theorem State.byteAt_setI (s : State) (w : Word) (a : Nat) : (s.setI w).byteAt a = s.byteAt a := State.byteAt_congr (by simp) a
@[simp] theorem State.reg_setDt (s : State) (b : Byte) (r : Nibble) : (s.setDt b).reg r = s.reg r := State.reg_congr (by simp) r
@[simp] theorem State.byteAt_setDt (s : State) (b : Byte) (a : Nat) : (s.setDt b).byteAt a = s.byteAt a := State.byteAt_congr (by simp) a
@[simp] theorem State.reg_setSt (s : State) (b : Byte) (r : Nibble) : (s.setSt b).reg r = s.reg r := State.reg_congr (by simp) r
@[simp] theorem State.byteAt_setSt (s : State) (b : Byte) (a : Nat) : (s.setSt b).byteAt a = s.byteAt a := State.byteAt_congr (by simp) a
@[simp] theorem State.reg_raise (s : State) (f : Fault) (r : Nibble) : (s.raise f).reg r = s.reg r := State.reg_congr (by simp) r
@[simp] theorem State.byteAt_raise (s : State) (f : Fault) (a : Nat) : (s.raise f).byteAt a = s.byteAt a := State.byteAt_congr (by simp) a
@[simp] theorem State.reg_apply (s : State) (d : Directive) (r : Nibble) : (s.apply d).reg r = s.reg r := State.reg_congr (by simp) r
@[simp] theorem State.byteAt_apply (s : State) (d : Directive) (a : Nat) : (s.apply d).byteAt a = s.byteAt a := State.byteAt_congr (by simp) a
@[simp] theorem State.reg_tick (s : State) (r : Nibble) : (s.tick).reg r = s.reg r := State.reg_congr (by simp) r
@[simp] theorem State.byteAt_tick (s : State) (a : Nat) : (s.tick).byteAt a = s.byteAt a := State.byteAt_congr (by simp) a
@[simp] theorem State.reg_setKeys (s : State) (down : Keys) (r : Nibble) : (s.setKeys down).reg r = s.reg r := State.reg_congr (by simp) r
@[simp] theorem State.byteAt_setKeys (s : State) (down : Keys) (a : Nat) : (s.setKeys down).byteAt a = s.byteAt a := State.byteAt_congr (by simp) a
@[simp] theorem State.reg_popTurn (s : State) (r : Nibble) : (s.popTurn).reg r = s.reg r := State.reg_congr (by simp) r
@[simp] theorem State.byteAt_popTurn (s : State) (a : Nat) : (s.popTurn).byteAt a = s.byteAt a := State.byteAt_congr (by simp) a
@[simp] theorem State.byteAt_setFlag (s : State) (f : Bool) (a : Nat) : (s.setFlag f).byteAt a = s.byteAt a := State.byteAt_congr (by simp) a
@[simp] theorem State.byteAt_setResultFlag (s : State) (x : Nibble) (b : Byte) (f : Bool) (a : Nat) : (s.setResultFlag x b f).byteAt a = s.byteAt a := State.byteAt_congr (by simp) a

end Sys2Proof.Machine
end

