-- ==== Sys2Proof/Laws/Ops.lean ====
section
/-! SUPPORT. One specification lemma per shared operation: everything it can do, said once. -/

namespace Sys2Proof.Machine

/-- A step's end always answers a next state (R83, R84). -/
theorem complete_ok (s t : State) (d : Directive) : complete s (.ok (t, d)) = .next (t.apply d) := rfl

theorem complete_error (s : State) (f : Fault) : complete s (.error f) = .next (s.raise f) := rfl

/-- A run of addresses is in range, or the fault names the lowest one out of range (R45). -/
theorem rangeFault_eq_none_iff (base count : Nat) :
    rangeFault base count = none ↔ count = 0 ∨ base + count ≤ Config.memSize := by
  unfold rangeFault; split <;> simp_all

theorem rangeFault_eq_some_iff (base count : Nat) (f : Fault) :
    rangeFault base count = some f ↔
      (0 < count ∧ Config.memSize < base + count) ∧ f = .outOfRangeMemoryAccess (max base Config.memSize) := by
  unfold rangeFault
  split
  · next h => simp only [reduceCtorEq, false_iff]; omega
  · next h => simp only [Option.some.injEq, eq_comm (b := f)]; exact ⟨fun e => ⟨by omega, e⟩, fun e => e.2⟩

/-- A read answers the bytes in ascending order of address, or the fault (R7, R45). -/
theorem State.memRead_cases (s : State) (base count : Nat) :
    (rangeFault base count = none ∧
      s.memRead base count = .ok ((List.range count).map fun k => s.byteAt (base + k))) ∨
    ∃ f, rangeFault base count = some f ∧ s.memRead base count = .error f := by
  unfold State.memRead; cases rangeFault base count <;> simp

/-- The stores of an instruction change the memory alone, or nothing (R46). -/
theorem State.memWrite_cases (s : State) (base : Nat) (bs : List Byte) :
    (rangeFault base bs.length = none ∧
      s.memWrite base bs = .ok { s with mem := s.mem.writeRun base bs }) ∨
    ∃ f, rangeFault base bs.length = some f ∧ s.memWrite base bs = .error f := by
  unfold State.memWrite; cases rangeFault base bs.length <;> simp

/-- A fetch answers the big-endian word at `PC`, or the fault (R40, R81). -/
theorem State.fetch_cases (s : State) :
    (s.pc.toNat + 2 ≤ Config.memSize ∧
      s.fetch = .ok (s.byteAt s.pc.toNat ++ s.byteAt (s.pc.toNat + 1))) ∨
    (Config.memSize < s.pc.toNat + 2 ∧
      s.fetch = .error (.outOfRangeMemoryAccess (max s.pc.toNat Config.memSize))) := by
  unfold State.fetch
  cases h : rangeFault s.pc.toNat 2 with
  | none => exact .inl ⟨by rw [rangeFault_eq_none_iff] at h; omega, rfl⟩
  | some f =>
    rw [rangeFault_eq_some_iff] at h
    exact .inr ⟨h.1.2, by rw [h.2]⟩

/-- A push stores the return address at `STK[SP]` and counts it, or overflows (R89). -/
theorem State.pushReturn_cases (s : State) (ra : Word) :
    (∃ (h : s.sp.val < Config.stackDepth), s.pushReturn ra =
      .ok { s with stk := s.stk.set s.sp.val ra h, sp := ⟨s.sp.val + 1, Nat.succ_lt_succ h⟩ }) ∨
    (s.sp.val = Config.stackDepth ∧ s.pushReturn ra = .error .stackOverflow) := by
  unfold State.pushReturn
  by_cases h : s.sp.val < Config.stackDepth
  · exact .inl ⟨h, by simp [h]⟩
  · exact .inr ⟨by have := s.sp.isLt; omega, by simp [h]⟩

/-- A pop answers the top entry and uncounts it, or underflows (R87). -/
theorem State.popReturn_cases (s : State) :
    (∃ (_ : 0 < s.sp.val) (h : s.sp.val - 1 < Config.stackDepth), s.popReturn =
      .ok (s.stk[s.sp.val - 1], { s with sp := ⟨s.sp.val - 1, Nat.lt_succ_of_lt h⟩ })) ∨
    (s.sp.val = 0 ∧ s.popReturn = .error .stackUnderflow) := by
  unfold State.popReturn
  by_cases h : 0 < s.sp.val
  · exact .inl ⟨h, by have := s.sp.isLt; omega, by simp [h]⟩
  · exact .inr ⟨by omega, by simp [h]⟩

/-- The byte drawn comes from the substituted source while it has one, else it is free (R33). -/
theorem State.drawByte_cases (s : State) :
    (∃ b rest, s.source = b :: rest ∧ s.drawByte = (b, { s with source := rest })) ∨
    (s.source = [] ∧ s.drawByte = (Config.freeByte s.draws, { s with draws := s.draws + 1 })) := by
  unfold State.drawByte; cases s.source <;> simp

/-- A key's answer is its state for a number below 16, else free (R31). -/
theorem State.keyDown_cases (s : State) (k : Byte) :
    (∃ h : k.toNat < Config.nKeys, s.keyDown k = (s.keys[k.toNat], s)) ∨
    (Config.nKeys ≤ k.toNat ∧ s.keyDown k = (Config.freeKey s.draws, { s with draws := s.draws + 1 })) := by
  unfold State.keyDown
  by_cases h : k.toNat < Config.nKeys
  · exact .inl ⟨h, by simp [h]⟩
  · exact .inr ⟨by omega, by simp [h]⟩

/-- The keys listed as down are exactly the keys that are down. -/
theorem State.mem_keysDown_iff (s : State) (b : Byte) :
    b ∈ s.keysDown ↔ ∃ k : Fin Config.nKeys, s.keys[k] = true ∧ b = BitVec.ofNat 8 k.val := by
  simp only [State.keysDown, List.mem_filterMap, List.mem_range]
  constructor
  · rintro ⟨k, hk, h⟩
    split at h
    · next hd => exact ⟨⟨k, hk⟩, by simpa [Nat.mod_eq_of_lt hk] using hd, by simpa using h.symm⟩
    · simp at h
  · rintro ⟨k, hd, rfl⟩
    exact ⟨k.val, k.isLt, by simpa [Nat.mod_eq_of_lt k.isLt] using hd⟩

/-- A key wait holds while no key is down, else it reports a key that is down; only the draw counter may move
besides (R144). -/
theorem State.waitKey_cases (s : State) :
    (s.keysDown = [] ∧ s.waitKey = none) ∨
    ∃ k n, k ∈ s.keysDown ∧ s.waitKey = some (k, { s with draws := n }) := by
  unfold State.waitKey
  cases h : s.keysDown with
  | nil => exact .inl ⟨rfl, rfl⟩
  | cons k ks =>
    cases ks with
    | nil => exact .inr ⟨k, s.draws, by simp, rfl⟩
    | cons k' ks =>
      refine .inr ⟨_, _, ?_, rfl⟩
      have hlt : Config.freeChoice s.draws % (k :: k' :: ks).length < (k :: k' :: ks).length :=
        Nat.mod_lt _ (by simp)
      rw [List.getD_eq_getElem _ _ hlt]
      exact List.getElem_mem _

/-- Flipping one pixel flips it and no other (R122). -/
theorem FrameBuffer.pixel_flip (fb : FrameBuffer) (r c r' c' : Nat) :
    (fb.flip r c).pixel r' c' =
      (if r' % Config.dispH = r % Config.dispH ∧ c' % Config.dispW = c % Config.dispW then !fb.pixel r' c'
        else fb.pixel r' c') := by
  unfold FrameBuffer.flip FrameBuffer.pixel
  by_cases hr : r' % Config.dispH = r % Config.dispH
  · by_cases hc : c' % Config.dispW = c % Config.dispW
    · simp [hr, hc]
    · simp [hr, hc, Ne.symm hc]
  · simp [hr, Ne.symm hr]

end Sys2Proof.Machine
end

