-- ==== Sys2Proof/Laws/Display.lean ====
section
/-! SUPPORT. What drawing one sprite row does to every pixel and to the collision (42_display.md R122). -/

namespace Sys2Proof.Machine

/-- The sprite columns `cs` of the byte `b`, drawn from column `x0`, have a 1 for display column `c`. -/
def rowSets (b : Byte) (x0 : Nat) (cs : List Nat) (c : Nat) : Bool :=
  cs.any fun k => b.getLsbD (7 - k) && decide (c % Config.dispW = (x0 + k) % Config.dispW)

/-- Coordinates count modulo the display (R29). -/
theorem FrameBuffer.pixel_congr (fb : FrameBuffer) {r c r' c' : Nat}
    (hr : r % Config.dispH = r' % Config.dispH) (hc : c % Config.dispW = c' % Config.dispW) :
    fb.pixel r c = fb.pixel r' c' := by
  simp only [FrameBuffer.pixel, hr, hc]

/-- Plotting the set columns among distinct sprite columns below 8 XORs them onto display row `r`, and
collides iff one of them meets a pixel that was set. -/
theorem Blit.foldl_plot (b : Byte) (r x0 : Nat) (cs : List Nat) (p : Blit) (hn : cs.Nodup)
    (h8 : ∀ k ∈ cs, k < 8) :
    (∀ r' c', (cs.foldl (fun q k => if b.getLsbD (7 - k) then q.plot r (x0 + k) else q) p).fb.pixel r' c' =
      (p.fb.pixel r' c' ^^ (decide (r' % Config.dispH = r % Config.dispH) && rowSets b x0 cs c'))) ∧
    ((cs.foldl (fun q k => if b.getLsbD (7 - k) then q.plot r (x0 + k) else q) p).hit = true ↔
      p.hit = true ∨ ∃ k ∈ cs, b.getLsbD (7 - k) = true ∧ p.fb.pixel r (x0 + k) = true) := by
  induction cs generalizing p with
  | nil => simp [rowSets]
  | cons k cs ih =>
    simp only [List.nodup_cons] at hn
    have hk := h8 k (by simp)
    have h8' : ∀ j ∈ cs, j < 8 := fun j hj => h8 j (by simp [hj])
    simp only [List.foldl_cons]
    by_cases hb : b.getLsbD (7 - k) = true
    · simp only [hb, if_true]
      obtain ⟨ih1, ih2⟩ := ih (p.plot r (x0 + k)) hn.2 h8'
      have apart : ∀ j ∈ cs, (x0 + j) % Config.dispW ≠ (x0 + k) % Config.dispW := by
        intro j hj
        have := h8' j hj
        have : j ≠ k := fun e => hn.1 (e ▸ hj)
        simp only [Config.dispW]
        omega
      constructor
      · intro r' c'
        rw [ih1]
        simp only [Blit.plot, FrameBuffer.pixel_flip, rowSets, List.any_cons, hb, Bool.true_and]
        by_cases hr : r' % Config.dispH = r % Config.dispH
        · by_cases hc : c' % Config.dispW = (x0 + k) % Config.dispW
          · have none : (cs.any fun j =>
                b.getLsbD (7 - j) && decide (c' % Config.dispW = (x0 + j) % Config.dispW)) = false := by
              rw [List.any_eq_false]
              intro j hj
              have ne : ¬ c' % Config.dispW = (x0 + j) % Config.dispW := fun e =>
                apart j hj (e.symm.trans hc)
              simp only [ne, decide_false, Bool.and_false]
              decide
            rw [none]
            simp [hr, hc]
          · simp [hr, hc]
        · simp [hr]
      · rw [ih2]
        simp only [Blit.plot, FrameBuffer.pixel_flip, List.mem_cons, exists_eq_or_imp, hb, true_and,
          Bool.or_eq_true, or_assoc]
        refine or_congr Iff.rfl (or_congr Iff.rfl (exists_congr fun j => and_congr_right fun hj => ?_))
        simp [apart j hj]
    · obtain ⟨ih1, ih2⟩ := ih p hn.2 h8'
      simp only [hb, Bool.false_eq_true, if_false]
      refine ⟨fun r' c' => by rw [ih1]; simp [rowSets, hb], by rw [ih2]; simp [hb]⟩

/-- One sprite row: what it does to every pixel, and when it collides. -/
theorem Blit.row_spec (p : Blit) (r x0 : Nat) (b : Byte) :
    (∀ r' c', (p.row r x0 b).fb.pixel r' c' =
      (p.fb.pixel r' c' ^^ (decide (r' % Config.dispH = r % Config.dispH) && rowSets b x0 (List.range 8) c'))) ∧
    ((p.row r x0 b).hit = true ↔
      p.hit = true ∨ ∃ k, k < 8 ∧ b.getLsbD (7 - k) = true ∧ p.fb.pixel r (x0 + k) = true) := by
  have h := Blit.foldl_plot b r x0 (List.range 8) p List.nodup_range (by simp)
  simp only [List.mem_range] at h
  exact h

end Sys2Proof.Machine
end

