-- ==== Sys2Proof/Laws/Instr.lean ====
section
/-! SUPPORT. What `exec` answers for each instruction whose meaning has more than one outcome, said once in
terms of the shared operations; the other arms of `exec` reduce to their one next state by `rfl`. -/

namespace Sys2Proof.Machine

theorem exec_ret_cases (s : State) :
    (∃ (_ : 0 < s.sp.val) (h : s.sp.val - 1 < Config.stackDepth), exec .ret s =
      .next (({ s with sp := ⟨s.sp.val - 1, Nat.lt_succ_of_lt h⟩ } : State).apply
        (.jump s.stk[s.sp.val - 1]))) ∨
    (s.sp.val = 0 ∧ exec .ret s = .next (s.raise .stackUnderflow)) := by
  show (∃ _ _, execRet s = _) ∨ (_ ∧ execRet s = _)
  unfold execRet
  rcases s.popReturn_cases with ⟨h, h', e⟩ | ⟨h, e⟩
  · exact .inl ⟨h, h', by rw [e]; rfl⟩
  · exact .inr ⟨h, by rw [e]; rfl⟩

theorem exec_call_cases (nnn : Addr12) (s : State) :
    (∃ h : s.sp.val < Config.stackDepth, exec (.callNnn nnn) s =
      .next (({ s with stk := s.stk.set s.sp.val (s.pc + 2) h,
                       sp := ⟨s.sp.val + 1, Nat.succ_lt_succ h⟩ } : State).apply (.jump (zextAddr nnn)))) ∨
    (s.sp.val = Config.stackDepth ∧ exec (.callNnn nnn) s = .next (s.raise .stackOverflow)) := by
  show (∃ _, execCallNnn nnn s = _) ∨ (_ ∧ execCallNnn nnn s = _)
  unfold execCallNnn
  rcases s.pushReturn_cases s.returnAddress with ⟨h, e⟩ | ⟨h, e⟩
  · exact .inl ⟨h, by rw [e]; rfl⟩
  · exact .inr ⟨h, by rw [e]; rfl⟩

/-- The bytes of a sprite of `n` rows at `I`. -/
def State.spriteBytes (s : State) (n : Nibble) : List Byte :=
  (List.range n.toNat).map fun k => s.byteAt (s.base + k)

/-- The blit of a draw whose addresses are in range. -/
def State.blit (s : State) (x y n : Nibble) : Blit :=
  Blit.rows ⟨s.fb, false⟩ (s.reg x).toNat (s.reg y).toNat (s.spriteBytes n)

theorem exec_drw_cases (x y n : Nibble) (s : State) :
    (rangeFault s.base n.toNat = none ∧ exec (.drwVxVyN x y n) s =
      .next ((({ s with fb := (s.blit x y n).fb } : State).setFlag (s.blit x y n).hit).apply .advance)) ∨
    ∃ f, rangeFault s.base n.toNat = some f ∧ exec (.drwVxVyN x y n) s = .next (s.raise f) := by
  show (_ ∧ execDrwVxVyN x y n s = _) ∨ ∃ f, _ ∧ execDrwVxVyN x y n s = _
  unfold execDrwVxVyN
  rcases s.memRead_cases s.base n.toNat with ⟨h, e⟩ | ⟨f, h, e⟩
  · exact .inl ⟨h, by rw [e]; rfl⟩
  · exact .inr ⟨f, h, by rw [e]; rfl⟩

theorem exec_ldB_cases (x : Nibble) (s : State) :
    (rangeFault s.base 3 = none ∧ exec (.ldBVx x) s =
      .next (({ s with mem := s.mem.writeRun s.base (decimalDigits (s.reg x)) } : State).apply .advance)) ∨
    ∃ f, rangeFault s.base 3 = some f ∧ exec (.ldBVx x) s = .next (s.raise f) := by
  show (_ ∧ execLdBVx x s = _) ∨ ∃ f, _ ∧ execLdBVx x s = _
  unfold execLdBVx
  rcases s.memWrite_cases s.base (decimalDigits (s.reg x)) with ⟨h, e⟩ | ⟨f, h, e⟩
  · exact .inl ⟨h, by rw [e]; rfl⟩
  · exact .inr ⟨f, h, by rw [e]; rfl⟩

@[simp] theorem State.length_regsUpTo (s : State) (x : Nibble) : (s.regsUpTo x).length = x.toNat + 1 := by
  simp [State.regsUpTo]

theorem exec_ldMem_cases (x : Nibble) (s : State) :
    (rangeFault s.base (x.toNat + 1) = none ∧ exec (.ldMemVx x) s =
      .next (({ s with mem := s.mem.writeRun s.base (s.regsUpTo x) } : State).apply .advance)) ∨
    ∃ f, rangeFault s.base (x.toNat + 1) = some f ∧ exec (.ldMemVx x) s = .next (s.raise f) := by
  show (_ ∧ execLdMemVx x s = _) ∨ ∃ f, _ ∧ execLdMemVx x s = _
  unfold execLdMemVx
  rcases s.memWrite_cases s.base (s.regsUpTo x) with ⟨h, e⟩ | ⟨f, h, e⟩ <;>
    rw [State.length_regsUpTo] at h
  · exact .inl ⟨h, by rw [e]; rfl⟩
  · exact .inr ⟨f, h, by rw [e]; rfl⟩

theorem exec_ldVxMem_cases (x : Nibble) (s : State) :
    (rangeFault s.base (x.toNat + 1) = none ∧ exec (.ldVxMem x) s =
      .next ((s.setRegsFrom 0
        ((List.range (x.toNat + 1)).map fun k => s.byteAt (s.base + k))).apply .advance)) ∨
    ∃ f, rangeFault s.base (x.toNat + 1) = some f ∧ exec (.ldVxMem x) s = .next (s.raise f) := by
  show (_ ∧ execLdVxMem x s = _) ∨ ∃ f, _ ∧ execLdVxMem x s = _
  unfold execLdVxMem
  rcases s.memRead_cases s.base (x.toNat + 1) with ⟨h, e⟩ | ⟨f, h, e⟩
  · exact .inl ⟨h, by rw [e]; rfl⟩
  · exact .inr ⟨f, h, by rw [e]; rfl⟩

/-- A run of register writes changes registers alone: everything else is the state's own. -/
theorem State.setRegsFrom_eq (s : State) (k : Nat) (bs : List Byte) :
    s.setRegsFrom k bs = { s with v := (s.setRegsFrom k bs).v } := by
  induction bs generalizing s k with
  | nil => rfl
  | cons b bs ih => show State.setRegsFrom (s.setReg _ b) (k + 1) bs = _; rw [ih]; rfl

/-- A register after a run of register writes inside the register file. -/
theorem State.reg_setRegsFrom (s : State) (k : Nat) (bs : List Byte) (h : k + bs.length ≤ 16) (r : Nibble) :
    (s.setRegsFrom k bs).reg r =
      if k ≤ r.toNat then bs.getD (r.toNat - k) (s.reg r) else s.reg r := by
  induction bs generalizing s k with
  | nil => simp [State.setRegsFrom]
  | cons b bs ih =>
    simp only [List.length_cons] at h
    show (State.setRegsFrom (s.setReg (BitVec.ofNat 4 k) b) (k + 1) bs).reg r = _
    have hk : (BitVec.ofNat 4 k).toNat = k := by
      rw [BitVec.toNat_ofNat]; exact Nat.mod_eq_of_lt (by omega)
    have hr : r = BitVec.ofNat 4 k ↔ r.toNat = k := by rw [← BitVec.toNat_inj, hk]
    rw [ih _ _ (by omega), State.reg_setReg]
    rcases Nat.lt_trichotomy r.toNat k with hlt | heq | hgt
    · have h1 : ¬ k + 1 ≤ r.toNat := by omega
      have h2 : ¬ k ≤ r.toNat := by omega
      have h3 : ¬ r.toNat = k := by omega
      simp [hr, h1, h2, h3]
    · simp [hr, heq]
    · obtain ⟨d, hd⟩ : ∃ d, r.toNat = k + 1 + d := ⟨r.toNat - (k + 1), by omega⟩
      have h2 : r.toNat - k = d + 1 := by omega
      have h3 : r.toNat - (k + 1) = d := by omega
      have h4 : ¬ r.toNat = k := by omega
      have h5 : k ≤ r.toNat := by omega
      have h6 : k + 1 ≤ r.toNat := by omega
      simp only [hr, h2, h3, h4, h5, h6, if_true, if_false, List.getD_cons_succ]

theorem exec_rnd_cases (x : Nibble) (kk : Byte) (s : State) :
    (∃ b rest, s.source = b :: rest ∧ exec (.rndVxKk x kk) s =
      .next ((({ s with source := rest } : State).setReg x (b &&& kk)).apply .advance)) ∨
    (s.source = [] ∧ exec (.rndVxKk x kk) s =
      .next ((({ s with draws := s.draws + 1 } : State).setReg x
        (Config.freeByte s.draws &&& kk)).apply .advance)) := by
  show (∃ _ _, _ ∧ execRndVxKk x kk s = _) ∨ (_ ∧ execRndVxKk x kk s = _)
  unfold execRndVxKk
  rcases s.drawByte_cases with ⟨b, rest, h, e⟩ | ⟨h, e⟩
  · exact .inl ⟨b, rest, h, by rw [e]; rfl⟩
  · exact .inr ⟨h, by rw [e]; rfl⟩

theorem exec_skp_cases (x : Nibble) (s : State) :
    (∃ h : (s.reg x).toNat < Config.nKeys, exec (.skpVx x) s =
      .next (s.apply (skipIf s.keys[(s.reg x).toNat]))) ∨
    (Config.nKeys ≤ (s.reg x).toNat ∧ exec (.skpVx x) s =
      .next (({ s with draws := s.draws + 1 } : State).apply (skipIf (Config.freeKey s.draws)))) := by
  show (∃ _, execSkpVx x s = _) ∨ (_ ∧ execSkpVx x s = _)
  unfold execSkpVx
  rcases s.keyDown_cases (s.reg x) with ⟨h, e⟩ | ⟨h, e⟩
  · exact .inl ⟨h, by rw [e]; rfl⟩
  · exact .inr ⟨h, by rw [e]; rfl⟩

theorem exec_sknp_cases (x : Nibble) (s : State) :
    (∃ h : (s.reg x).toNat < Config.nKeys, exec (.sknpVx x) s =
      .next (s.apply (skipIf (!s.keys[(s.reg x).toNat])))) ∨
    (Config.nKeys ≤ (s.reg x).toNat ∧ exec (.sknpVx x) s =
      .next (({ s with draws := s.draws + 1 } : State).apply (skipIf (!Config.freeKey s.draws)))) := by
  show (∃ _, execSknpVx x s = _) ∨ (_ ∧ execSknpVx x s = _)
  unfold execSknpVx
  rcases s.keyDown_cases (s.reg x) with ⟨h, e⟩ | ⟨h, e⟩
  · exact .inl ⟨h, by rw [e]; rfl⟩
  · exact .inr ⟨h, by rw [e]; rfl⟩

theorem exec_ldKey_cases (x : Nibble) (s : State) :
    (s.keysDown = [] ∧ exec (.ldVxKey x) s = .next s) ∨
    ∃ k n, k ∈ s.keysDown ∧ exec (.ldVxKey x) s =
      .next ((({ s with draws := n } : State).setReg x k).apply .advance) := by
  show (_ ∧ execLdVxKey x s = _) ∨ ∃ k n, _ ∧ execLdVxKey x s = _
  unfold execLdVxKey
  rcases s.waitKey_cases with ⟨h, e⟩ | ⟨k, n, h, e⟩
  · exact .inl ⟨h, by rw [e]⟩
  · exact .inr ⟨k, n, h, by rw [e]; rfl⟩

/-- The step of the core: a latched fault stops it, a fault of the fetch or an unknown word is latched, and a
fetched instruction is executed (R80 to R84). -/
theorem coreStep_cases (s : State) :
    (∃ f, s.fault = some f ∧ coreStep s = .fault f) ∨
    s.fault = none ∧
      ((∃ f, s.fetch = .error f ∧ coreStep s = .next (s.raise f)) ∨
       (∃ w e, s.fetch = .ok w ∧ decodeWord w = .error e ∧ coreStep s = .next (s.raise (.unknownOpcode w))) ∨
       ∃ w i, s.fetch = .ok w ∧ decodeWord w = .ok i ∧ coreStep s = exec i s) := by
  unfold coreStep
  cases hf : s.fault with
  | some f => exact .inl ⟨f, rfl, rfl⟩
  | none =>
    refine .inr ⟨rfl, ?_⟩
    cases hw : s.fetch with
    | error f => exact .inl ⟨f, rfl, rfl⟩
    | ok w =>
      cases hd : decodeWord w with
      | error e => exact .inr (.inl ⟨w, e, rfl, hd, by simp [hd, complete]⟩)
      | ok i => exact .inr (.inr ⟨w, i, rfl, hd, by simp [hd]⟩)

/-- A step is the turn of the agent that moves next. -/
theorem step_cases (s : State) :
    (s.turn = .core ∧ step s = coreStep s.popTurn) ∨
    (s.turn = .tick ∧ step s = .next s.popTurn.tick) ∨
    ∃ down, s.turn = .keys down ∧ step s = .next (s.popTurn.setKeys down) := by
  unfold step turnStep
  cases h : s.turn with
  | core => exact .inl ⟨rfl, rfl⟩
  | tick => exact .inr (.inl ⟨rfl, rfl⟩)
  | keys down => exact .inr (.inr ⟨down, rfl, rfl⟩)

/-- The fetch does not look at the schedule. -/
@[simp] theorem State.fetch_popTurn (s : State) : s.popTurn.fetch = s.fetch := rfl

end Sys2Proof.Machine
end

