-- ==== Sys2Proof/Laws/PerInstr.lean ====
section
/-! SUPPORT. Statements made per instruction. -/

/-- The word of an instruction is selected by the row of the opcode map that has its mnemonic (R65). -/
def Sys2Proof.Laws.EncodeRow.Statement (i : Sys2Proof.Instr) : Prop :=
  ∃ r ∈ Sys2Proof.opcodeMap, r.mnemonic = i.mnemonic ∧ r.selects (Sys2Proof.encode i) = true

namespace Sys2Proof.Laws

open Sys2Proof

/-- A row of the map whose masked pattern the word meets is the row wanted. -/
theorem encodeRow_of_row {i : Instr} (r : OpRow) (hr : r ∈ opcodeMap) (hm : r.mnemonic = i.mnemonic)
    (hw : encode i &&& r.mask = r.pattern) : EncodeRow.Statement i :=
  ⟨r, hr, hm, by simp [OpRow.selects, hw]⟩

theorem EncodeRow.cls : EncodeRow.Statement .cls :=
  encodeRow_of_row ⟨"CLS", 0x00E0, 0xFFFF⟩ (by decide) rfl (by decide)

theorem EncodeRow.ret : EncodeRow.Statement .ret :=
  encodeRow_of_row ⟨"RET", 0x00EE, 0xFFFF⟩ (by decide) rfl (by decide)

theorem EncodeRow.jpNnn (nnn : Addr12) : EncodeRow.Statement (.jpNnn nnn) :=
  encodeRow_of_row ⟨"JP_nnn", 0x1000, 0xF000⟩ (by decide) rfl ((formatA_mask_class _ _).trans (by decide))

theorem EncodeRow.callNnn (nnn : Addr12) : EncodeRow.Statement (.callNnn nnn) :=
  encodeRow_of_row ⟨"CALL_nnn", 0x2000, 0xF000⟩ (by decide) rfl ((formatA_mask_class _ _).trans (by decide))

theorem EncodeRow.seVxKk (x : Nibble) (kk : Byte) : EncodeRow.Statement (.seVxKk x kk) :=
  encodeRow_of_row ⟨"SE_Vx__kk", 0x3000, 0xF000⟩ (by decide) rfl ((formatXK_mask_class _ _ _).trans (by decide))

theorem EncodeRow.sneVxKk (x : Nibble) (kk : Byte) : EncodeRow.Statement (.sneVxKk x kk) :=
  encodeRow_of_row ⟨"SNE_Vx__kk", 0x4000, 0xF000⟩ (by decide) rfl ((formatXK_mask_class _ _ _).trans (by decide))

theorem EncodeRow.seVxVy (x : Nibble) (y : Nibble) : EncodeRow.Statement (.seVxVy x y) :=
  encodeRow_of_row ⟨"SE_Vx__Vy", 0x5000, 0xF00F⟩ (by decide) rfl ((formatXYN_mask_nibble _ _ _ _).trans (by decide))

theorem EncodeRow.ldVxKk (x : Nibble) (kk : Byte) : EncodeRow.Statement (.ldVxKk x kk) :=
  encodeRow_of_row ⟨"LD_Vx__kk", 0x6000, 0xF000⟩ (by decide) rfl ((formatXK_mask_class _ _ _).trans (by decide))

theorem EncodeRow.addVxKk (x : Nibble) (kk : Byte) : EncodeRow.Statement (.addVxKk x kk) :=
  encodeRow_of_row ⟨"ADD_Vx__kk", 0x7000, 0xF000⟩ (by decide) rfl ((formatXK_mask_class _ _ _).trans (by decide))

theorem EncodeRow.ldVxVy (x : Nibble) (y : Nibble) : EncodeRow.Statement (.ldVxVy x y) :=
  encodeRow_of_row ⟨"LD_Vx__Vy", 0x8000, 0xF00F⟩ (by decide) rfl ((formatXYN_mask_nibble _ _ _ _).trans (by decide))

theorem EncodeRow.orVxVy (x : Nibble) (y : Nibble) : EncodeRow.Statement (.orVxVy x y) :=
  encodeRow_of_row ⟨"OR_Vx__Vy", 0x8001, 0xF00F⟩ (by decide) rfl ((formatXYN_mask_nibble _ _ _ _).trans (by decide))

theorem EncodeRow.andVxVy (x : Nibble) (y : Nibble) : EncodeRow.Statement (.andVxVy x y) :=
  encodeRow_of_row ⟨"AND_Vx__Vy", 0x8002, 0xF00F⟩ (by decide) rfl ((formatXYN_mask_nibble _ _ _ _).trans (by decide))

theorem EncodeRow.xorVxVy (x : Nibble) (y : Nibble) : EncodeRow.Statement (.xorVxVy x y) :=
  encodeRow_of_row ⟨"XOR_Vx__Vy", 0x8003, 0xF00F⟩ (by decide) rfl ((formatXYN_mask_nibble _ _ _ _).trans (by decide))

theorem EncodeRow.addVxVy (x : Nibble) (y : Nibble) : EncodeRow.Statement (.addVxVy x y) :=
  encodeRow_of_row ⟨"ADD_Vx__Vy", 0x8004, 0xF00F⟩ (by decide) rfl ((formatXYN_mask_nibble _ _ _ _).trans (by decide))

theorem EncodeRow.subVxVy (x : Nibble) (y : Nibble) : EncodeRow.Statement (.subVxVy x y) :=
  encodeRow_of_row ⟨"SUB_Vx__Vy", 0x8005, 0xF00F⟩ (by decide) rfl ((formatXYN_mask_nibble _ _ _ _).trans (by decide))

theorem EncodeRow.shrVx (x : Nibble) (y : Nibble) : EncodeRow.Statement (.shrVx x y) :=
  encodeRow_of_row ⟨"SHR_Vx", 0x8006, 0xF00F⟩ (by decide) rfl ((formatXYN_mask_nibble _ _ _ _).trans (by decide))

theorem EncodeRow.subnVxVy (x : Nibble) (y : Nibble) : EncodeRow.Statement (.subnVxVy x y) :=
  encodeRow_of_row ⟨"SUBN_Vx__Vy", 0x8007, 0xF00F⟩ (by decide) rfl ((formatXYN_mask_nibble _ _ _ _).trans (by decide))

theorem EncodeRow.shlVx (x : Nibble) (y : Nibble) : EncodeRow.Statement (.shlVx x y) :=
  encodeRow_of_row ⟨"SHL_Vx", 0x800E, 0xF00F⟩ (by decide) rfl ((formatXYN_mask_nibble _ _ _ _).trans (by decide))

theorem EncodeRow.sneVxVy (x : Nibble) (y : Nibble) : EncodeRow.Statement (.sneVxVy x y) :=
  encodeRow_of_row ⟨"SNE_Vx__Vy", 0x9000, 0xF00F⟩ (by decide) rfl ((formatXYN_mask_nibble _ _ _ _).trans (by decide))

theorem EncodeRow.ldINnn (nnn : Addr12) : EncodeRow.Statement (.ldINnn nnn) :=
  encodeRow_of_row ⟨"LD_I__nnn", 0xA000, 0xF000⟩ (by decide) rfl ((formatA_mask_class _ _).trans (by decide))

theorem EncodeRow.jpV0Nnn (nnn : Addr12) : EncodeRow.Statement (.jpV0Nnn nnn) :=
  encodeRow_of_row ⟨"JP_V0__nnn", 0xB000, 0xF000⟩ (by decide) rfl ((formatA_mask_class _ _).trans (by decide))

theorem EncodeRow.rndVxKk (x : Nibble) (kk : Byte) : EncodeRow.Statement (.rndVxKk x kk) :=
  encodeRow_of_row ⟨"RND_Vx__kk", 0xC000, 0xF000⟩ (by decide) rfl ((formatXK_mask_class _ _ _).trans (by decide))

theorem EncodeRow.drwVxVyN (x : Nibble) (y : Nibble) (n : Nibble) : EncodeRow.Statement (.drwVxVyN x y n) :=
  encodeRow_of_row ⟨"DRW_Vx__Vy__n", 0xD000, 0xF000⟩ (by decide) rfl ((formatXYN_mask_class _ _ _ _).trans (by decide))

theorem EncodeRow.skpVx (x : Nibble) : EncodeRow.Statement (.skpVx x) :=
  encodeRow_of_row ⟨"SKP_Vx", 0xE09E, 0xF0FF⟩ (by decide) rfl ((formatXK_mask_byte _ _ _).trans (by decide))

theorem EncodeRow.sknpVx (x : Nibble) : EncodeRow.Statement (.sknpVx x) :=
  encodeRow_of_row ⟨"SKNP_Vx", 0xE0A1, 0xF0FF⟩ (by decide) rfl ((formatXK_mask_byte _ _ _).trans (by decide))

theorem EncodeRow.ldVxDt (x : Nibble) : EncodeRow.Statement (.ldVxDt x) :=
  encodeRow_of_row ⟨"LD_Vx__DT", 0xF007, 0xF0FF⟩ (by decide) rfl ((formatXK_mask_byte _ _ _).trans (by decide))

theorem EncodeRow.ldVxKey (x : Nibble) : EncodeRow.Statement (.ldVxKey x) :=
  encodeRow_of_row ⟨"LD_Vx__K", 0xF00A, 0xF0FF⟩ (by decide) rfl ((formatXK_mask_byte _ _ _).trans (by decide))

theorem EncodeRow.ldDtVx (x : Nibble) : EncodeRow.Statement (.ldDtVx x) :=
  encodeRow_of_row ⟨"LD_DT__Vx", 0xF015, 0xF0FF⟩ (by decide) rfl ((formatXK_mask_byte _ _ _).trans (by decide))

theorem EncodeRow.ldStVx (x : Nibble) : EncodeRow.Statement (.ldStVx x) :=
  encodeRow_of_row ⟨"LD_ST__Vx", 0xF018, 0xF0FF⟩ (by decide) rfl ((formatXK_mask_byte _ _ _).trans (by decide))

theorem EncodeRow.addIVx (x : Nibble) : EncodeRow.Statement (.addIVx x) :=
  encodeRow_of_row ⟨"ADD_I__Vx", 0xF01E, 0xF0FF⟩ (by decide) rfl ((formatXK_mask_byte _ _ _).trans (by decide))

theorem EncodeRow.ldFVx (x : Nibble) : EncodeRow.Statement (.ldFVx x) :=
  encodeRow_of_row ⟨"LD_F__Vx", 0xF029, 0xF0FF⟩ (by decide) rfl ((formatXK_mask_byte _ _ _).trans (by decide))

theorem EncodeRow.ldBVx (x : Nibble) : EncodeRow.Statement (.ldBVx x) :=
  encodeRow_of_row ⟨"LD_B__Vx", 0xF033, 0xF0FF⟩ (by decide) rfl ((formatXK_mask_byte _ _ _).trans (by decide))

theorem EncodeRow.ldMemVx (x : Nibble) : EncodeRow.Statement (.ldMemVx x) :=
  encodeRow_of_row ⟨"LD__I___Vx", 0xF055, 0xF0FF⟩ (by decide) rfl ((formatXK_mask_byte _ _ _).trans (by decide))

theorem EncodeRow.ldVxMem (x : Nibble) : EncodeRow.Statement (.ldVxMem x) :=
  encodeRow_of_row ⟨"LD_Vx___I", 0xF065, 0xF0FF⟩ (by decide) rfl ((formatXK_mask_byte _ _ _).trans (by decide))

end Sys2Proof.Laws
end

