-- ==== Sys2Proof/Tests/Slice0.lean ====
section
/-! SUPPORT. The model's own tests. Every expected result is taken from 95_test_vectors.md (named in the
theorem's comment) or written out by hand from the rule it names; no test is a pasted answer of the model. Then
a witness for the hypotheses of each statement that has any. -/

namespace Sys2Proof.Tests

open Sys2Proof Sys2Proof.Machine

/-! ### WellFormed: an ill-formed term for each check -/

/-- R67: one unknown word of each class is selected by no row; R65: a defined word is. -/
theorem test_ill_formed_words :
    ([0x0123, 0x5AB1, 0x8128, 0x812F, 0x9CD5, 0xE19F, 0xF130].all fun w => !wordDefined w && wordUnknown w) = true ∧
    wordDefined 0x00E0 = true ∧ wordUnknown 0x00E0 = false := by decide

/-- R178: an image of 3585 bytes does not fit, one of 3584 does. -/
theorem test_ill_formed_image :
    imageFits (List.replicate 3585 0) = false ∧ imageFits (List.replicate 3584 0) = true := by
  simp only [imageFits, List.length_replicate]
  decide

/-! ### Decoding: words of 95_test_vectors.md section 2.1, written out from R65 -/

theorem test_decode_control :
    decodeWord 0x00EE = .ok .ret ∧ decodeWord 0x1ABC = .ok (.jpNnn 0xABC) ∧
    decodeWord 0x2FFF = .ok (.callNnn 0xFFF) ∧ decodeWord 0x3A42 = .ok (.seVxKk 10 0x42) ∧
    decodeWord 0x4B00 = .ok (.sneVxKk 11 0) ∧ decodeWord 0x5AB0 = .ok (.seVxVy 10 11) ∧
    decodeWord 0x9CD0 = .ok (.sneVxVy 12 13) ∧ decodeWord 0xB456 = .ok (.jpV0Nnn 0x456) := by decide

theorem test_decode_alu :
    decodeWord 0x6C7F = .ok (.ldVxKk 12 0x7F) ∧ decodeWord 0x7DFF = .ok (.addVxKk 13 0xFF) ∧
    decodeWord 0x8120 = .ok (.ldVxVy 1 2) ∧ decodeWord 0x8121 = .ok (.orVxVy 1 2) ∧
    decodeWord 0x8122 = .ok (.andVxVy 1 2) ∧ decodeWord 0x8123 = .ok (.xorVxVy 1 2) ∧
    decodeWord 0x8124 = .ok (.addVxVy 1 2) ∧ decodeWord 0x8125 = .ok (.subVxVy 1 2) ∧
    decodeWord 0x8126 = .ok (.shrVx 1 2) ∧ decodeWord 0x8127 = .ok (.subnVxVy 1 2) ∧
    decodeWord 0x812E = .ok (.shlVx 1 2) := by decide

theorem test_decode_display :
    decodeWord 0x00E0 = .ok .cls ∧ decodeWord 0xD12F = .ok (.drwVxVyN 1 2 15) ∧
    decodeWord 0xD120 = .ok (.drwVxVyN 1 2 0) := by decide

theorem test_decode_memory :
    decodeWord 0xA123 = .ok (.ldINnn 0x123) ∧ decodeWord 0xF11E = .ok (.addIVx 1) ∧
    decodeWord 0xF129 = .ok (.ldFVx 1) ∧ decodeWord 0xF133 = .ok (.ldBVx 1) ∧
    decodeWord 0xF155 = .ok (.ldMemVx 1) ∧ decodeWord 0xF165 = .ok (.ldVxMem 1) := by decide

theorem test_decode_random_key_timer :
    decodeWord 0xC5F0 = .ok (.rndVxKk 5 0xF0) ∧ decodeWord 0xE19E = .ok (.skpVx 1) ∧
    decodeWord 0xE1A1 = .ok (.sknpVx 1) ∧ decodeWord 0xF107 = .ok (.ldVxDt 1) ∧
    decodeWord 0xF10A = .ok (.ldVxKey 1) ∧ decodeWord 0xF115 = .ok (.ldDtVx 1) ∧
    decodeWord 0xF118 = .ok (.ldStVx 1) := by decide

/-- The unknown words of section 2.1, and the byte order of the fetch: bytes 12 34 are the word 0x1234. -/
theorem test_decode_unknown_and_byte_order :
    ([0x0000, 0x00E1, 0x00FD, 0x0123, 0x5AB1, 0x8128, 0x812F, 0x9CD5, 0xE000, 0xE1FF, 0xF100, 0xF175, 0xF1FF].all
      fun w => decide (decodeWord w = .error (.unknownOpcode w))) = true ∧
    decode [0x12, 0x34, 0x56] = .ok (.jpNnn 0x234, [0x56]) ∧ decode [0x12] = .error (.truncated 1) ∧
    decodeTableWord 16 0xF165 = some (.ldVxMem 1) ∧ decodeTableWord 16 0x0000 = none := by decide

/-! ### Instructions: vectors of 95_test_vectors.md sections 2.2 to 2.7 -/

/-- The outcome is a next state of which `p` holds. -/
def onNext (o : Host.Outcome State Fault Refusal) (p : State → Bool) : Bool :=
  match o with
  | .next t => p t
  | .fault _ => false
  | .refused _ => false

/-- One step of the word from the state, the word placed at its `PC`. -/
def runWord (s : State) (w : Nat) (p : State → Bool) : Bool := onNext (step (s.withFetchWord 16 w)) p

/-- The reset state with some registers set. -/
def withRegs (rs : List (Nibble × Byte)) : State := rs.foldl (fun s r => s.setReg r.1 r.2) State.reset

/-- V-C6, and `RET` at `SP = 16` (R87). -/
theorem test_ret :
    runWord State.reset 0x00EE (fun t => t.fault == some .stackUnderflow && t.sp == 0 && t.pc == 0x200) = true ∧
    runWord { State.reset with sp := 16, stk := State.reset.stk.set 15 0x0ABC } 0x00EE
      (fun t => t.sp == 15 && t.pc == 0x0ABC) = true := by decide

/-- V-C9, V-C12: the fetch after `JP 0xFFF` faults with 0x1000. -/
theorem test_jp :
    runWord State.reset 0x1200 (fun t => t.pc == 0x200) = true ∧
    runWord State.reset 0x1FFF (fun t =>
      t.pc == 0xFFF && onNext (step t) (fun u => u.fault == some (.outOfRangeMemoryAccess 0x1000))) = true := by decide

/-- V-C8, V-C7. -/
theorem test_call :
    runWord { State.reset with sp := 15 } 0x2300
      (fun t => t.stk[15] == 0x0202 && t.sp == 16 && t.pc == 0x300) = true ∧
    runWord { State.reset with sp := 16 } 0x2300
      (fun t => t.fault == some .stackOverflow && t.sp == 16 && t.pc == 0x200) = true := by decide

/-- V-C1, V-C1'. -/
theorem test_se_immediate :
    runWord (withRegs [(3, 0x2A)]) 0x332A (fun t => t.pc == 0x204) = true ∧
    runWord (withRegs [(3, 0x2B)]) 0x332A (fun t => t.pc == 0x202) = true := by decide

/-- V-C2, V-C2'. -/
theorem test_sne_immediate :
    runWord (withRegs [(3, 0x2A)]) 0x432A (fun t => t.pc == 0x202) = true ∧
    runWord (withRegs [(3, 0x00)]) 0x432A (fun t => t.pc == 0x204) = true := by decide

/-- V-C3, V-C3'. -/
theorem test_se_register :
    runWord (withRegs [(1, 7), (2, 7)]) 0x5120 (fun t => t.pc == 0x204) = true ∧
    runWord (withRegs [(1, 7), (2, 8)]) 0x5120 (fun t => t.pc == 0x202) = true := by decide

/-- V-C4, V-C4'. -/
theorem test_sne_register :
    runWord (withRegs [(1, 7), (2, 8)]) 0x9120 (fun t => t.pc == 0x204) = true ∧
    runWord (withRegs [(1, 7), (2, 7)]) 0x9120 (fun t => t.pc == 0x202) = true := by decide

/-- V-C10, V-C11. -/
theorem test_offset_jump :
    runWord (withRegs [(0, 4)]) 0xB300 (fun t => t.pc == 0x304) = true ∧
    runWord (withRegs [(0, 0xFF)]) 0xBFFF (fun t =>
      t.pc == 0x10FE && onNext (step t) (fun u => u.fault == some (.outOfRangeMemoryAccess 0x10FE))) = true := by decide

/-- V-A1, V-A10. -/
theorem test_ld_immediate :
    runWord State.reset 0x6A2A (fun t => t.reg 10 == 0x2A && t.pc == 0x202) = true ∧
    runWord State.reset 0x6F07 (fun t => t.reg 15 == 0x07) = true := by decide

/-- V-A2, V-A3. -/
theorem test_add_immediate :
    runWord (withRegs [(1, 0xFE)]) 0x7103 (fun t => t.reg 1 == 1 && t.reg 15 == 0) = true ∧
    runWord (withRegs [(1, 0xFF), (15, 1)]) 0x7101 (fun t => t.reg 1 == 0 && t.reg 15 == 1) = true := by decide

/-- V-A5. -/
theorem test_ld_register : runWord (withRegs [(2, 0x55)]) 0x8120 (fun t => t.reg 1 == 0x55) = true := by decide

/-- V-A6. -/
theorem test_or :
    runWord (withRegs [(1, 0xF0), (2, 0x0F), (15, 1)]) 0x8121 (fun t => t.reg 1 == 0xFF && t.reg 15 == 1) = true := by
  decide

/-- V-A7. -/
theorem test_and : runWord (withRegs [(1, 0xF0), (2, 0x3C)]) 0x8122 (fun t => t.reg 1 == 0x30) = true := by decide

/-- V-A8, V-A9. -/
theorem test_xor :
    runWord (withRegs [(1, 0xF0), (2, 0x3C)]) 0x8123 (fun t => t.reg 1 == 0xCC) = true ∧
    runWord (withRegs [(1, 0xA5)]) 0x8113 (fun t => t.reg 1 == 0) = true := by decide

/-- Section 2.3, row FF 01; V-F6, V-F1. -/
theorem test_add :
    runWord (withRegs [(1, 0xFF), (2, 1)]) 0x8124 (fun t => t.reg 1 == 0 && t.reg 15 == 1) = true ∧
    runWord (withRegs [(1, 0xFF), (15, 1)]) 0x81F4 (fun t => t.reg 1 == 0 && t.reg 15 == 1) = true ∧
    runWord (withRegs [(15, 0xFF), (1, 2)]) 0x8F14 (fun t => t.reg 15 == 1) = true := by decide

/-- Section 2.3, rows 07 07 and 03 05; V-F3. -/
theorem test_sub :
    runWord (withRegs [(1, 7), (2, 7)]) 0x8125 (fun t => t.reg 1 == 0 && t.reg 15 == 0) = true ∧
    runWord (withRegs [(1, 3), (2, 5)]) 0x8125 (fun t => t.reg 1 == 0xFE && t.reg 15 == 0) = true ∧
    runWord (withRegs [(15, 5), (1, 3)]) 0x8F15 (fun t => t.reg 15 == 1) = true := by decide

/-- Section 2.3, row FF 01: `V2` plays no part; V-F4. -/
theorem test_shr :
    runWord (withRegs [(1, 0xFF), (2, 1)]) 0x8126 (fun t => t.reg 1 == 0x7F && t.reg 2 == 1 && t.reg 15 == 1) = true ∧
    runWord (withRegs [(15, 4)]) 0x8F06 (fun t => t.reg 15 == 0) = true := by decide

/-- Section 2.3, rows 03 05 and 07 07. -/
theorem test_subn :
    runWord (withRegs [(1, 3), (2, 5)]) 0x8127 (fun t => t.reg 1 == 2 && t.reg 15 == 1) = true ∧
    runWord (withRegs [(1, 7), (2, 7)]) 0x8127 (fun t => t.reg 1 == 0 && t.reg 15 == 0) = true := by decide

/-- Section 2.3, row 81 00; V-F5. -/
theorem test_shl :
    runWord (withRegs [(1, 0x81)]) 0x812E (fun t => t.reg 1 == 2 && t.reg 15 == 1) = true ∧
    runWord (withRegs [(15, 0x81)]) 0x8F0E (fun t => t.reg 15 == 1) = true := by decide

/-- The columns of the pixels lit in a display row. -/
def litIn (t : State) (r : Nat) : List Nat := (List.range 64).filter fun c => t.fb.pixel r c

/-- V-D12. -/
theorem test_cls :
    runWord { withRegs [(15, 1)] with fb := State.reset.fb.flip 3 5 } 0x00E0
      (fun t => !t.fb.pixel 3 5 && t.reg 15 == 1) = true := by decide

/-- V-D1: wrap in the column; V-D5: a 0 bit over a lit pixel is no collision. -/
theorem test_drw_pixels :
    runWord { withRegs [(0, 62), (15, 1)] with i := 0x300, mem := [(0x300, 0xF0)] } 0xD011
      (fun t => litIn t 0 == [0, 1, 62, 63] && t.reg 15 == 0) = true ∧
    runWord { State.reset with i := 0x300, mem := [(0x300, 0x40)], fb := State.reset.fb.flip 0 0 } 0xD011
      (fun t => litIn t 0 == [0, 1] && t.reg 15 == 0) = true := by decide

/-- V-D4: a collision; V-D7: `n = 0` out of range; V-D9: the fault leaves `VF`; V-D11: `x = 15`. -/
theorem test_drw_corners :
    runWord { State.reset with i := 0x300, mem := [(0x300, 0xC0)], fb := State.reset.fb.flip 0 0 } 0xD011
      (fun t => litIn t 0 == [1] && t.reg 15 == 1) = true ∧
    runWord { withRegs [(15, 1)] with i := 0x1234 } 0xD010 (fun t => t.reg 15 == 0 && t.fault == none) = true ∧
    runWord { withRegs [(15, 1)] with i := 0xFFE } 0xD013
      (fun t => t.reg 15 == 1 && t.fault == some (.outOfRangeMemoryAccess 0x1000)) = true ∧
    runWord { withRegs [(15, 10)] with i := 0x300, mem := [(0x300, 0x80)] } 0xDF11
      (fun t => litIn t 0 == [10] && t.reg 15 == 0) = true := by decide

/-- V-M1. -/
theorem test_ld_i : runWord { State.reset with i := 0xFFFF } 0xA2F0 (fun t => t.i == 0x2F0) = true := by decide

/-- V-M3, V-M4. -/
theorem test_add_i :
    runWord { withRegs [(2, 1)] with i := 0xFFF } 0xF21E (fun t => t.i == 0x1000 && t.reg 15 == 0) = true ∧
    runWord { withRegs [(2, 1)] with i := 0xFFFF } 0xF21E (fun t => t.i == 0) = true := by decide

/-- V-M5 and V-M6, for any `FONT_BASE`: digit A is 50 bytes past it. -/
theorem test_ld_f :
    exec (.ldFVx 3) (withRegs [(3, 0x0A)]) =
      .next ({ withRegs [(3, 0x0A)] with i := BitVec.ofNat 16 (Config.fontBase.val + 50), pc := 0x202 } : State) := rfl

/-- V-M7, V-M10. -/
theorem test_ld_b :
    runWord { withRegs [(4, 156)] with i := 0x300 } 0xF433 (fun t =>
      t.byteAt 0x300 == 1 && t.byteAt 0x301 == 5 && t.byteAt 0x302 == 6 && t.i == 0x300) = true ∧
    runWord { withRegs [(4, 255)] with i := 0xFFE } 0xF433 (fun t =>
      t.fault == some (.outOfRangeMemoryAccess 0x1000) && t.byteAt 0xFFE == 0) = true := by decide

/-- V-M11; V-M13. -/
theorem test_ld_mem :
    runWord { withRegs [(0, 0x11), (1, 0x22), (2, 0x33)] with i := 0x400 } 0xF155 (fun t =>
      t.byteAt 0x400 == 0x11 && t.byteAt 0x401 == 0x22 && t.byteAt 0x402 == 0 && t.i == 0x400) = true ∧
    runWord { State.reset with i := 0xFF1 } 0xFF55
      (fun t => t.fault == some (.outOfRangeMemoryAccess 0x1000) && t.mem.all fun c => decide (c.1 < 0xFF1)) = true := by
  decide

/-- V-M14; V-M15. -/
theorem test_ld_from_mem :
    runWord { withRegs [(2, 0x77)] with i := 0x400, mem := [(0x400, 0xAA), (0x401, 0xBB), (0x402, 0xCC)] } 0xF165
      (fun t => t.reg 0 == 0xAA && t.reg 1 == 0xBB && t.reg 2 == 0x77 && t.i == 0x400) = true ∧
    runWord { State.reset with i := 0xFFFF } 0xF065
      (fun t => t.fault == some (.outOfRangeMemoryAccess 0xFFFF)) = true := by decide

/-- V-R1 with a substituted source; V-R2, whatever the draw. -/
theorem test_rnd :
    runWord { State.reset with source := [0xB7, 0x01] } 0xC30F (fun t => t.reg 3 == 0x07 && t.source == [0x01]) = true ∧
    (∀ b : Byte, b &&& 0x00 = 0) := ⟨by decide, by simp⟩

/-- The keys with exactly one down. -/
def oneKey (k : Fin 16) : Keys := State.reset.keys.set k.val true

/-- V-K1, V-K2. -/
theorem test_skp :
    runWord { withRegs [(2, 5)] with keys := oneKey 5 } 0xE29E (fun t => t.pc == 0x204) = true ∧
    runWord (withRegs [(2, 5)]) 0xE29E (fun t => t.pc == 0x202) = true := by decide

/-- V-K3, V-K4. -/
theorem test_sknp :
    runWord { withRegs [(2, 5)] with keys := oneKey 5 } 0xE2A1 (fun t => t.pc == 0x202) = true ∧
    runWord (withRegs [(2, 5)]) 0xE2A1 (fun t => t.pc == 0x204) = true := by decide

/-- V-T1. -/
theorem test_ld_dt_read :
    runWord { State.reset with dt := 0x1E } 0xF407 (fun t => t.reg 4 == 0x1E && t.dt == 0x1E) = true := by decide

/-- V-K6 with a tick during the hold; V-K7. -/
theorem test_ld_key :
    onNext (step (State.reset.withFetchWord 16 0xF50A)) (fun t =>
      t.pc == 0x200 && t.reg 5 == 0 &&
      onNext (step { t with turns := [.keys (oneKey 0xB)] }) fun u =>
        onNext (step u) fun w => w.reg 5 == 0x0B && w.pc == 0x202) = true := by decide

/-- V-T2. -/
theorem test_ld_dt_write : runWord (withRegs [(1, 0x3C)]) 0xF115 (fun t => t.dt == 0x3C) = true := by decide

/-- V-T3. -/
theorem test_ld_st : runWord (withRegs [(1, 0x05)]) 0xF118 (fun t => t.st == 0x05) = true := by decide

/-- V-T4, V-T5, V-X5: a tick, also with a fault latched. -/
theorem test_tick :
    onNext (step { State.reset with dt := 2, turns := [.tick] }) (fun t => t.dt == 1 && t.st == 0) = true ∧
    onNext (step { State.reset with st := 1, fault := some .stackOverflow, turns := [.tick] })
      (fun t => t.dt == 0 && t.st == 0 && t.fault == some .stackOverflow) = true := by decide

/-- V-X1, V-X4; V-X3: no step once the fault is latched. -/
theorem test_faults :
    onNext (step State.reset) (fun t => t.fault == some (.unknownOpcode 0x0000) && t.pc == 0x200) = true ∧
    onNext (step { State.reset with pc := 0xFFF })
      (fun t => t.fault == some (.outOfRangeMemoryAccess 0x1000)) = true ∧
    (∀ f, step { State.reset with fault := some f } = .fault f) := ⟨by decide, by decide, fun _ => rfl⟩

/-! ### Witnesses: the hypotheses of each statement can be met, each clause at a boundary -/

theorem witness_EncodeOfDecode : decodeWord 0x8AB6 = .ok (.shrVx 10 11) := by decide

theorem witness_OpcodeMapSelectsInstruction :
    (⟨"LD_Vx___I", 0xF065, 0xF0FF⟩ : OpRow) ∈ opcodeMap ∧ (0xFF65 : Word) &&& 0xF0FF = 0xF065 := by decide

theorem witness_DecodingIsTotal : wordUnknown 0xFFFF = true ∧ wordUnknown 0xDFFF = false := by decide

/-- `PC` at the last address an instruction fits. -/
def atTop : State := ({ State.reset with pc := 0xFFE } : State).withFetchWord 16 0x6A01

theorem witness_StepRunsDecodedInstruction :
    atTop.fault = none ∧ atTop.turn = .core ∧ atTop.pc.toNat + 1 < 4096 ∧
    decode [atTop.byteAt atTop.pc.toNat, atTop.byteAt (atTop.pc.toNat + 1)] = .ok (.ldVxKk 10 1, []) := by decide

theorem witness_FetchReadsWordAtPc :
    atTop.pc.toNat + 1 < 4096 ∧ 4096 ≤ ({ State.reset with pc := 0xFFF } : State).pc.toNat + 1 := by decide

/-- A state whose fetch is out of range by one byte. -/
def overTop : State := { State.reset with pc := 0xFFF }

theorem witness_FetchOutOfRangeLatches :
    overTop.fault = none ∧ overTop.turn = .core ∧ 4096 ≤ overTop.pc.toNat + 1 := by decide

theorem witness_UnknownWordLatches :
    State.reset.fault = none ∧ State.reset.turn = .core ∧ State.reset.fetch = .ok 0 ∧ wordUnknown 0 = true ∧
    ∃ t, step State.reset = .next t ∧ t.fault = some (.unknownOpcode 0) :=
  ⟨rfl, rfl, rfl, by decide, _, rfl, rfl⟩

theorem witness_LatchedFaultIsForEver :
    (State.reset.raise .stackOverflow).fault = some .stackOverflow ∧
    (State.reset.raise .stackOverflow).turn = .core ∧
    ({ State.reset.raise .stackOverflow with turns := [.tick] } : State).turn ≠ .core ∧
    ∃ t, step { State.reset.raise .stackOverflow with turns := [.tick] } = .next t :=
  ⟨rfl, rfl, by decide, _, rfl⟩

theorem witness_FaultsArePrecise :
    State.reset.fault = none ∧ ∃ t, exec .ret State.reset = .next t ∧ t.fault = some .stackUnderflow :=
  ⟨rfl, _, rfl, rfl⟩

theorem witness_FaultTable : State.reset.fault = none ∧ State.reset.turn = .core := ⟨rfl, rfl⟩

theorem witness_LowestBadAddressIsReported :
    rangeFault 4095 1 = none ∧ rangeFault 4096 0 = none ∧
    rangeFault 4095 2 = some (.outOfRangeMemoryAccess 4096) ∧
    rangeFault 65535 16 = some (.outOfRangeMemoryAccess 65535) := by decide

theorem witness_DirectiveClassMovesPc :
    (directiveClass (.seVxKk 0 0) = .skips ∧ ∃ t, exec (.seVxKk 0 0) State.reset = .next t ∧ t.fault = none) ∧
    (directiveClass .cls = .advances ∧ ∃ t, exec .cls State.reset = .next t ∧ t.fault = none) ∧
    directiveClass (.ldVxKey 0) = .advances ∧ ∃ t, exec (.ldVxKey 0) State.reset = .next t ∧ t.fault = none :=
  ⟨⟨rfl, _, rfl, rfl⟩, ⟨rfl, _, rfl, rfl⟩, rfl, _, rfl, rfl⟩

theorem witness_PcNeverWraps : atTop.fetch = .ok 0x6A01 := by decide

/-- A state held in `LD V5, K`. -/
def heldState : State := State.reset.withFetchWord 16 0xF50A

theorem witness_HeldCoreWaits : heldState.held ∧ heldState.turn = .core :=
  ⟨⟨rfl, ⟨5, by decide⟩, by unfold State.noKeyDown; decide⟩, rfl⟩

/-- An idle state: `JP 0x200` at 0x200. -/
def idleState : State := State.reset.withFetchWord 16 0x1200

theorem witness_IdleStepReproducesState : idleState.idle ∧ idleState.turn = .core :=
  ⟨⟨rfl, 0x200, by decide, by decide⟩, rfl⟩

theorem witness_RetPopsReturnAddress :
    0 < ({ State.reset with sp := 16 } : State).sp.val ∧ 0 < ({ State.reset with sp := 1 } : State).sp.val ∧
    State.reset.sp.val = 0 := by decide

theorem witness_CallPushesNextAddress :
    ({ State.reset with sp := 15 } : State).sp.val < 16 ∧ ({ State.reset with sp := 16 } : State).sp.val = 16 := by decide

theorem witness_CallThenRet : ({ State.reset with sp := 15 } : State).sp.val < 16 := by decide

theorem witness_SixteenNestedCalls :
    State.reset.fault = none ∧ State.reset.sp.val = 0 ∧ (List.replicate 16 (0x200 : Addr12)).length = 16 := by decide

theorem witness_StackFaultsAtTheBounds :
    State.reset.fault = none ∧
    (∃ t, exec .ret State.reset = .next t ∧ t.fault = some .stackUnderflow ∧ t.turn = .core) ∧
    ∃ t, exec (.callNnn 0) { State.reset with sp := 16 } = .next t ∧ t.fault = some .stackOverflow ∧ t.turn = .core :=
  ⟨rfl, ⟨_, rfl, rfl, rfl⟩, _, rfl, rfl, rfl⟩

theorem witness_AddSetsCarry_SubSetsInverseBorrow_SubnSetsInverseBorrow_ShiftsSetBitShiftedOut :
    (14 : Nibble) ≠ 15 := by decide

/-- A one-row sprite at the last byte of memory, over a lit pixel. -/
def drawState : State :=
  { State.reset with i := 0xFFF, mem := [(0xFFF, 0x80)], fb := State.reset.fb.flip 0 0 }

theorem witness_DrwXorsSprite :
    drawState.i.toNat + (1 : Nibble).toNat - 1 < 4096 ∧
    (1 ≤ (2 : Nibble).toNat ∧ 4096 ≤ drawState.i.toNat + (2 : Nibble).toNat - 1) ∧
    drawState.spriteSets 0 0 1 0 0 ∧ ¬ drawState.spriteSets 0 0 1 1 0 ∧ drawState.fb.pixel 0 0 = true ∧
    ¬ ∃ r c, r < 32 ∧ c < 64 ∧ drawState.spriteSets 0 0 0 r c ∧ drawState.fb.pixel r c = true := by
  refine ⟨by decide, by decide, ⟨0, 0, by decide, by decide, by decide, by decide, by decide⟩, ?_, by decide, ?_⟩
  · rintro ⟨r', c', h, -, -, hr, -⟩
    have : r' < 1 := h
    have hy : (drawState.reg 0).toNat = 0 := by decide
    rw [hy] at hr
    simp only [Config.dispH] at hr
    omega
  · rintro ⟨r, c, -, -, ⟨r', c', h, -⟩, -⟩
    exact absurd h (Nat.not_lt_zero _)

theorem witness_DrwTwiceRestoresDisplay :
    ∃ t u, exec (.drwVxVyN 0 0 1) drawState = .next t ∧ t.i = drawState.i ∧ t.reg 0 = drawState.reg 0 ∧
      t.byteAt (drawState.i.toNat + 0) = drawState.byteAt (drawState.i.toNat + 0) ∧
      exec (.drwVxVyN 0 0 1) t = .next u :=
  ⟨_, _, rfl, by decide, by decide, by decide, rfl⟩

theorem witness_FontAddressOfDigit :
    ((withRegs [(3, 15)]).reg 3).toNat ≤ 15 ∧ 16 ≤ ((withRegs [(3, 16)]).reg 3).toNat := by decide

theorem witness_FontSpriteAtI :
    ((15 : Byte), ([0xF0, 0x80, 0xF0, 0x80, 0x80] : List Byte)) ∈
      ([
      (0, [0xF0, 0x90, 0x90, 0x90, 0xF0]), (1, [0x20, 0x60, 0x20, 0x20, 0x70]),
      (2, [0xF0, 0x10, 0xF0, 0x80, 0xF0]), (3, [0xF0, 0x10, 0xF0, 0x10, 0xF0]),
      (4, [0x90, 0x90, 0xF0, 0x10, 0x10]), (5, [0xF0, 0x80, 0xF0, 0x10, 0xF0]),
      (6, [0xF0, 0x80, 0xF0, 0x90, 0xF0]), (7, [0xF0, 0x10, 0x20, 0x40, 0x40]),
      (8, [0xF0, 0x90, 0xF0, 0x90, 0xF0]), (9, [0xF0, 0x90, 0xF0, 0x10, 0xF0]),
      (10, [0xF0, 0x90, 0xF0, 0x90, 0x90]), (11, [0xE0, 0x90, 0xE0, 0x90, 0xE0]),
      (12, [0xF0, 0x80, 0x80, 0x80, 0xF0]), (13, [0xE0, 0x90, 0x90, 0x90, 0xE0]),
      (14, [0xF0, 0x80, 0xF0, 0x80, 0xF0]), (15, [0xF0, 0x80, 0xF0, 0x80, 0x80])] : List (Byte × List Byte)) ∧
    (withRegs [(3, 15)]).reg 3 = 15 ∧ atTop.reg 3 = 0 ∧ (∀ c ∈ (withRegs [(3, 15)]).mem, 512 ≤ c.1) ∧
    (∀ c ∈ atTop.mem, 512 ≤ c.1) ∧ ([0xF0, 0x80, 0xF0, 0x80, 0x80] : List Byte)[4]? = some 0x80 := by decide

/-- R133: three digits of the font table, written out from the spec's table. -/
theorem test_font_table :
    fontTable.length = 80 ∧ fontTable.take 5 = [0xF0, 0x90, 0x90, 0x90, 0xF0] ∧
    (fontTable.drop 35).take 5 = [0xF0, 0x10, 0x20, 0x40, 0x40] ∧
    fontTable.drop 75 = [0xF0, 0x80, 0xF0, 0x80, 0x80] := by decide

theorem witness_DecimalStore :
    ({ State.reset with i := 0xFFD } : State).Inv ∧ ({ State.reset with i := 0xFFD } : State).i.toNat + 2 < 4096 ∧
    4096 ≤ ({ State.reset with i := 0xFFE } : State).i.toNat + 2 := ⟨rfl, by decide, by decide⟩

theorem witness_BlockStore_BlockLoad :
    atTop.Inv ∧ ({ State.reset with i := 0xFF0 } : State).i.toNat + (15 : Nibble).toNat < 4096 ∧
    4096 ≤ ({ State.reset with i := 0xFF1 } : State).i.toNat + (15 : Nibble).toNat ∧
    (3 : Nibble).toNat ≤ (3 : Nibble).toNat ∧ (3 : Nibble).toNat < (4 : Nibble).toNat :=
  ⟨by unfold State.Inv; decide, by decide, by decide, by decide, by decide⟩

/-- `LD [I], V1` at 0x200 with `I` at the next instruction. -/
def storeOverNext : State := { State.reset with i := 0x202 }

theorem witness_FetchSeesStoredInstruction :
    storeOverNext.Inv ∧ storeOverNext.pc.toNat + 3 < 4096 ∧ 1 ≤ (1 : Nibble).toNat ∧
    storeOverNext.i.toNat = storeOverNext.pc.toNat + 2 ∧ storeOverNext.i.toNat + (1 : Nibble).toNat < 4096 ∧
    ∃ t, exec (.ldMemVx 1) storeOverNext = .next t :=
  ⟨rfl, by decide, by decide, by decide, by decide, _, rfl⟩

theorem witness_RndMasksDrawnByte :
    ({ State.reset with source := [0xB7] } : State).source = 0xB7 :: [] ∧ State.reset.source = [] := ⟨rfl, rfl⟩

theorem witness_KeySkips :
    ((withRegs [(2, 15)]).reg 2).toNat = (15 : Fin 16).val ∧ 16 ≤ ((withRegs [(2, 16)]).reg 2).toNat := by decide

theorem witness_KeyWaitHoldsThenReports :
    State.reset.noKeyDown ∧ ¬ ({ State.reset with keys := oneKey 15 } : State).noKeyDown := by
  unfold State.noKeyDown; decide

theorem witness_TickStopsAtZero : ({ State.reset with turns := [.tick] } : State).turn = .tick := rfl

theorem witness_OnlyProviderChangesKeys :
    ({ State.reset with turns := [.keys (oneKey 0)] } : State).turn = .keys (oneKey 0) ∧
    ((∀ down, State.reset.turn ≠ .keys down) ∧ ∃ t, step State.reset = .next t) ∧
    (∀ down, ({ State.reset with turns := [.tick] } : State).turn ≠ .keys down) ∧
    ∃ t, step { State.reset with turns := [.tick] } = .next t :=
  ⟨rfl, ⟨nofun, _, rfl⟩, nofun, _, rfl⟩

theorem witness_DelayTimerOnlyFalls :
    (∃ t, step State.reset = .next t) ∧ ∃ t, step (State.reset.withFetchWord 16 0xF115) = .next t :=
  ⟨⟨_, rfl⟩, _, rfl⟩

theorem witness_InstructionsWriteTheirParts : ∃ t, exec (.rndVxKk 1 0xFF) State.reset = .next t := ⟨_, rfl⟩

theorem witness_FlagIsTheOnlySideEffect :
    isDestination 2 (.addVxVy 1 2) = false ∧ setsFlag (.addVxVy 1 2) = true ∧ (2 : Nibble) ≠ 15 ∧
    State.reset.fault = none ∧ ∃ t, exec (.addVxVy 1 2) State.reset = .next t ∧ t.fault = none :=
  ⟨by decide, rfl, by decide, rfl, _, rfl, rfl⟩

theorem witness_StepKeepsMemoryCanonical : State.reset.Inv ∧ ∃ t, step State.reset = .next t := ⟨rfl, _, rfl⟩

theorem witness_ResetWithImage : (List.replicate 3584 (0xFF : Byte)).length ≤ 3584 := by
  rw [List.length_replicate]

theorem witness_LongImageIsRefused : 3584 < (List.replicate 3585 (0xFF : Byte)).length := by
  rw [List.length_replicate]; decide

end Sys2Proof.Tests
end

/-! ### The frame calculus: what one update changes, and how changes add up -/

namespace Sys2Proof.Machine

theorem OnlyChanges.refl (s : State) : OnlyChanges [] s s := by
  intro p _; cases p <;> simp [Part.same]

theorem OnlyChanges.mono {ps qs : List Part} {s t : State} (h : OnlyChanges ps s t) (hsub : ps ⊆ qs) :
    OnlyChanges qs s t :=
  fun p hp => h p fun hp' => hp (hsub hp')

theorem Part.same_trans {p : Part} {s t u : State} (h : p.same s t) (h' : p.same t u) : p.same s u := by
  cases p
  case regs | mem => exact fun r => (h' r).trans (h r)
  all_goals exact Eq.trans h' h

theorem OnlyChanges.trans {ps qs : List Part} {s t u : State} (h : OnlyChanges ps s t)
    (h' : OnlyChanges qs t u) : OnlyChanges (ps ++ qs) s u := by
  intro p hp
  rw [List.mem_append, not_or] at hp
  exact Part.same_trans (h p hp.1) (h' p hp.2)

/-! One law per field; each named update of the state is a write of one field (the tick of two). -/

section Fields

variable (s : State)

theorem onlyChanges_v (v : Vector Byte Config.nReg) : OnlyChanges [.regs] s { s with v := v } := by
  intro p hp; cases p <;> simp_all [Part.same, State.byteAt]

theorem onlyChanges_i (w : Word) : OnlyChanges [.i] s { s with i := w } := by
  intro p hp; cases p <;> simp_all [Part.same, State.reg, State.byteAt]

theorem onlyChanges_dt (b : Byte) : OnlyChanges [.dt] s { s with dt := b } := by
  intro p hp; cases p <;> simp_all [Part.same, State.reg, State.byteAt]

theorem onlyChanges_st (b : Byte) : OnlyChanges [.st] s { s with st := b } := by
  intro p hp; cases p <;> simp_all [Part.same, State.reg, State.byteAt]

theorem onlyChanges_sp (n : Fin (Config.stackDepth + 1)) : OnlyChanges [.sp] s { s with sp := n } := by
  intro p hp; cases p <;> simp_all [Part.same, State.reg, State.byteAt]

theorem onlyChanges_stk (stk : Vector Word Config.stackDepth) :
    OnlyChanges [.stk] s { s with stk := stk } := by
  intro p hp; cases p <;> simp_all [Part.same, State.reg, State.byteAt]

theorem onlyChanges_mem (m : Memory) : OnlyChanges [.mem] s { s with mem := m } := by
  intro p hp; cases p <;> simp_all [Part.same, State.reg]

theorem onlyChanges_fb (fb : FrameBuffer) : OnlyChanges [.fb] s { s with fb := fb } := by
  intro p hp; cases p <;> simp_all [Part.same, State.reg, State.byteAt]

theorem onlyChanges_keys (down : Keys) : OnlyChanges [.keys] s { s with keys := down } := by
  intro p hp; cases p <;> simp_all [Part.same, State.reg, State.byteAt]

theorem onlyChanges_draws (n : Nat) : OnlyChanges [.draws] s { s with draws := n } := by
  intro p hp; cases p <;> simp_all [Part.same, State.reg, State.byteAt]

theorem onlyChanges_source (bs : List Byte) : OnlyChanges [.source] s { s with source := bs } := by
  intro p hp; cases p <;> simp_all [Part.same, State.reg, State.byteAt]

theorem onlyChanges_popTurn : OnlyChanges [.turns] s s.popTurn := by
  intro p hp; cases p <;> simp_all [Part.same]

theorem onlyChanges_raise (f : Fault) : OnlyChanges [.fault] s (s.raise f) := by
  intro p hp; cases p <;> simp_all [Part.same]

theorem onlyChanges_apply (d : Directive) : OnlyChanges [.pc] s (s.apply d) := by
  intro p hp; cases p <;> simp_all [Part.same]

theorem onlyChanges_tick : OnlyChanges [.dt, .st] s s.tick :=
  (onlyChanges_dt s (tickTimer s.dt)).trans (onlyChanges_st _ (tickTimer s.st))

end Fields

/-- A state reached by changing `ps`, with a directive applied: `PC` may have changed besides. -/
theorem OnlyChanges.apply {ps : List Part} {s u : State} (h : OnlyChanges ps s u) (d : Directive) :
    OnlyChanges (.pc :: ps) s (u.apply d) :=
  (h.trans (onlyChanges_apply u d)).mono (by simp)

end Sys2Proof.Machine

/-! ### What an instruction and a step can do, said once -/

namespace Sys2Proof.Machine

/-- What instruction `i` can make of the state `s` before its directive is applied, in terms of the shared
operations, where it raises no fault. -/
inductive Update (s : State) : Instr → State → Prop where
  | keep {i : Instr} (hf : setsFlag i = false) : Update s i s
  | clear : Update s .cls { s with fb := FrameBuffer.clear }
  | pop (n : Fin (Config.stackDepth + 1)) : Update s .ret { s with sp := n }
  | push (nnn : Addr12) (stk : Vector Word Config.stackDepth) (n : Fin (Config.stackDepth + 1)) :
    Update s (.callNnn nnn) { s with stk := stk, sp := n }
  | setReg {i : Instr} {x : Nibble} (b : Byte) (hx : isDestination x i = true) (hf : setsFlag i = false) :
    Update s i (s.setReg x b)
  | setResultFlag {i : Instr} {x : Nibble} (b : Byte) (f : Bool) (hx : isDestination x i = true)
    (hf : setsFlag i = true) : Update s i (s.setResultFlag x b f)
  | setI {i : Instr} (w : Word) (hp : Part.i ∈ partsWritten i) (hf : setsFlag i = false) :
    Update s i (s.setI w)
  | setDt (x : Nibble) (b : Byte) : Update s (.ldDtVx x) (s.setDt b)
  | setSt (x : Nibble) (b : Byte) : Update s (.ldStVx x) (s.setSt b)
  | takeByte (x : Nibble) (kk b : Byte) (rest : List Byte) :
    Update s (.rndVxKk x kk) (({ s with source := rest } : State).setReg x b)
  | drawByte (x : Nibble) (kk b : Byte) (n : Nat) :
    Update s (.rndVxKk x kk) (({ s with draws := n } : State).setReg x b)
  | drawKey {i : Instr} (n : Nat) (hp : Part.draws ∈ partsWritten i) (hf : setsFlag i = false) :
    Update s i { s with draws := n }
  | waitKey (x : Nibble) (k : Byte) (n : Nat) :
    Update s (.ldVxKey x) (({ s with draws := n } : State).setReg x k)
  | blit (x y n : Nibble) (fb : FrameBuffer) (f : Bool) :
    Update s (.drwVxVyN x y n) (({ s with fb := fb } : State).setFlag f)
  | store {i : Instr} (bs : List Byte) (hp : Part.mem ∈ partsWritten i) (hf : setsFlag i = false)
    (hr : rangeFault s.base bs.length = none) :
    Update s i { s with mem := s.mem.writeRun s.base bs }
  | load (x : Nibble) (bs : List Byte) (hlen : bs.length = x.toNat + 1) :
    Update s (.ldVxMem x) (s.setRegsFrom 0 bs)

/-- From `s` to `t`, instruction `i` has raised a fault, held in the key wait, or made its update and applied
a directive. -/
def Executed (i : Instr) (s t : State) : Prop :=
  (∃ f, t = s.raise f) ∨ (t = s ∧ ∃ x, i = .ldVxKey x) ∨ ∃ u d, Update s i u ∧ t = u.apply d

theorem Executed.of_raise {i : Instr} {s t : State} {f : Fault}
    (h : Host.Outcome.next (φ := Fault) (ρ := Refusal) (s.raise f) = .next t) : Executed i s t :=
  .inl ⟨f, (Host.Outcome.next.inj h).symm⟩

theorem Update.executed {i : Instr} {s t u : State} {d : Directive} (hu : Update s i u)
    (h : Host.Outcome.next (φ := Fault) (ρ := Refusal) (u.apply d) = .next t) : Executed i s t :=
  .inr (.inr ⟨u, d, hu, (Host.Outcome.next.inj h).symm⟩)

theorem executed_of_exec {i : Instr} {s t : State} (h : exec i s = .next t) : Executed i s t := by
  cases i
  case jpNnn | jpV0Nnn | seVxKk | sneVxKk | seVxVy | sneVxVy => exact (Update.keep rfl).executed h
  case ldVxKk | addVxKk | ldVxVy | orVxVy | andVxVy | xorVxVy | ldVxDt =>
    exact (Update.setReg _ (beq_self_eq_true _) rfl).executed h
  case addVxVy | subVxVy | shrVx | subnVxVy | shlVx =>
    exact (Update.setResultFlag _ _ (beq_self_eq_true _) rfl).executed h
  case ldINnn | addIVx | ldFVx => exact (Update.setI _ (by simp [partsWritten]) rfl).executed h
  case ldDtVx => exact (Update.setDt _ _).executed h
  case ldStVx => exact (Update.setSt _ _).executed h
  case cls => exact Update.clear.executed h
  case ret =>
    rcases exec_ret_cases s with ⟨_, _, e⟩ | ⟨_, e⟩ <;> rw [e] at h
    · exact (Update.pop _).executed h
    · exact .of_raise h
  case callNnn nnn =>
    rcases exec_call_cases nnn s with ⟨_, e⟩ | ⟨_, e⟩ <;> rw [e] at h
    · exact (Update.push _ _ _).executed h
    · exact .of_raise h
  case rndVxKk x kk =>
    rcases exec_rnd_cases x kk s with ⟨_, _, _, e⟩ | ⟨_, e⟩ <;> rw [e] at h
    · exact (Update.takeByte _ _ _ _).executed h
    · exact (Update.drawByte _ _ _ _).executed h
  case skpVx x =>
    rcases exec_skp_cases x s with ⟨_, e⟩ | ⟨_, e⟩ <;> rw [e] at h
    · exact (Update.keep rfl).executed h
    · exact (Update.drawKey _ (by simp [partsWritten]) rfl).executed h
  case sknpVx x =>
    rcases exec_sknp_cases x s with ⟨_, e⟩ | ⟨_, e⟩ <;> rw [e] at h
    · exact (Update.keep rfl).executed h
    · exact (Update.drawKey _ (by simp [partsWritten]) rfl).executed h
  case ldVxKey x =>
    rcases exec_ldKey_cases x s with ⟨_, e⟩ | ⟨_, _, _, e⟩ <;> rw [e] at h
    · exact .inr (.inl ⟨(Host.Outcome.next.inj h).symm, x, rfl⟩)
    · exact (Update.waitKey _ _ _).executed h
  case drwVxVyN x y n =>
    rcases exec_drw_cases x y n s with ⟨_, e⟩ | ⟨_, _, e⟩ <;> rw [e] at h
    · exact (Update.blit _ _ _ _ _).executed h
    · exact .of_raise h
  case ldBVx x =>
    rcases exec_ldB_cases x s with ⟨hr, e⟩ | ⟨_, _, e⟩ <;> rw [e] at h
    · exact (Update.store _ (by simp [partsWritten]) rfl hr).executed h
    · exact .of_raise h
  case ldMemVx x =>
    rcases exec_ldMem_cases x s with ⟨hr, e⟩ | ⟨_, _, e⟩ <;> rw [e] at h
    · exact (Update.store _ (by simp [partsWritten]) rfl (by simpa using hr)).executed h
    · exact .of_raise h
  case ldVxMem x =>
    rcases exec_ldVxMem_cases x s with ⟨_, e⟩ | ⟨_, _, e⟩ <;> rw [e] at h
    · exact (Update.load _ _ (by simp)).executed h
    · exact .of_raise h

/-- A step that answers a next state: the core latched a fault or executed the instruction at `PC`, or the
timers ticked, or the keys were set; the turn is off the schedule. -/
theorem step_next_cases {s t : State} (h : step s = .next t) :
    (s.turn = .core ∧ s.fault = none ∧
      ((∃ f, t = s.popTurn.raise f) ∨ ∃ i, s.instrAtPc = some i ∧ exec i s.popTurn = .next t)) ∨
    (s.turn = .tick ∧ t = s.popTurn.tick) ∨
    ∃ down, s.turn = .keys down ∧ t = s.popTurn.setKeys down := by
  rcases step_cases s with ⟨ht, e⟩ | ⟨ht, e⟩ | ⟨down, ht, e⟩ <;> rw [e] at h
  · refine .inl ⟨ht, ?_⟩
    rcases coreStep_cases s.popTurn with
      ⟨f, -, e⟩ | ⟨hf, ⟨f, -, e⟩ | ⟨w, -, -, -, e⟩ | ⟨w, i, hw, hd, e⟩⟩ <;> rw [e] at h
    · cases h
    · exact ⟨hf, .inl ⟨f, (Host.Outcome.next.inj h).symm⟩⟩
    · exact ⟨hf, .inl ⟨_, (Host.Outcome.next.inj h).symm⟩⟩
    · rw [State.fetch_popTurn] at hw
      exact ⟨hf, .inr ⟨i, by simp [State.instrAtPc, hw, hd, Except.toOption], h⟩⟩
  · exact .inr (.inl ⟨ht, (Host.Outcome.next.inj h).symm⟩)
  · exact .inr (.inr ⟨down, ht, (Host.Outcome.next.inj h).symm⟩)

end Sys2Proof.Machine

/-! ### Frames: parts of the state, registers, memory -/

namespace Sys2Proof.Machine

theorem regs_mem_partsWritten {i : Instr} {x : Nibble} :
    isDestination x i = true → Part.regs ∈ partsWritten i := by
  cases i <;> simp [isDestination, partsWritten]

theorem dt_mem_partsWritten_iff (i : Instr) : Part.dt ∈ partsWritten i ↔ ∃ x, i = .ldDtVx x := by
  cases i <;> simp [partsWritten]

theorem keys_not_mem_partsWritten (i : Instr) : Part.keys ∉ partsWritten i := by
  cases i <;> simp [partsWritten]

theorem pc_mem_partsWritten (i : Instr) : Part.pc ∈ partsWritten i := by
  cases i <;> simp [partsWritten]

theorem Update.onlyChanges {i : Instr} {s u : State} (hu : Update s i u) :
    OnlyChanges (partsWritten i) s u := by
  cases hu with
  | keep => exact (OnlyChanges.refl s).mono (by simp)
  | clear => exact (onlyChanges_fb s _).mono (by simp [partsWritten])
  | pop n => exact (onlyChanges_sp s n).mono (by simp [partsWritten])
  | push nnn stk n =>
    exact ((onlyChanges_stk s stk).trans (onlyChanges_sp _ n)).mono (by simp [partsWritten])
  | setReg b hx => exact (onlyChanges_v s _).mono (by simpa using regs_mem_partsWritten hx)
  | setResultFlag b f hx => exact (onlyChanges_v s _).mono (by simpa using regs_mem_partsWritten hx)
  | setI w hp => exact (onlyChanges_i s w).mono (by simpa using hp)
  | setDt x b => exact (onlyChanges_dt s b).mono (by simp [partsWritten])
  | setSt x b => exact (onlyChanges_st s b).mono (by simp [partsWritten])
  | takeByte x kk b rest =>
    exact ((onlyChanges_source s rest).trans (onlyChanges_v _ _)).mono (by simp [partsWritten])
  | drawByte x kk b n =>
    exact ((onlyChanges_draws s n).trans (onlyChanges_v _ _)).mono (by simp [partsWritten])
  | drawKey n hp => exact (onlyChanges_draws s n).mono (by simpa using hp)
  | waitKey x k n =>
    exact ((onlyChanges_draws s n).trans (onlyChanges_v _ _)).mono (by simp [partsWritten])
  | blit x y n fb f =>
    exact ((onlyChanges_fb s fb).trans (onlyChanges_v _ _)).mono (by simp [partsWritten])
  | store bs hp => exact (onlyChanges_mem s _).mono (by simpa using hp)
  | load x bs =>
    rw [State.setRegsFrom_eq]
    exact (onlyChanges_v s _).mono (by simp [partsWritten])

theorem exec_onlyChanges {i : Instr} {s t : State} (h : exec i s = .next t) :
    OnlyChanges (.fault :: partsWritten i) s t := by
  rcases executed_of_exec h with ⟨f, rfl⟩ | ⟨rfl, -⟩ | ⟨u, d, hu, rfl⟩
  · exact (onlyChanges_raise s f).mono (by simp)
  · exact (OnlyChanges.refl t).mono (by simp)
  · refine (hu.onlyChanges.apply d).mono ?_
    rw [List.cons_subset]
    exact ⟨List.mem_cons_of_mem _ (pc_mem_partsWritten i), List.subset_cons_self _ _⟩

/-- A register that is no destination keeps its value, but `V[15]` under the instructions that set the flag. -/
theorem Update.reg_eq {i : Instr} {s u : State} (hu : Update s i u) {r : Nibble}
    (hr : isDestination r i = false) (h15 : setsFlag i = true → r ≠ 15) : u.reg r = s.reg r := by
  have hne {x : Nibble} (hx : isDestination x i = true) : r ≠ x := by rintro rfl; simp_all
  cases hu with
  | setReg b hx => exact State.reg_setReg_of_ne s b (hne hx)
  | setResultFlag b f hx hf =>
    exact (State.reg_setResultFlag s _ r b f).trans ((if_neg (h15 hf)).trans (if_neg (hne hx)))
  | takeByte | drawByte | waitKey => exact State.reg_setReg_of_ne _ _ (by simpa [isDestination] using hr)
  | blit => exact (State.reg_setFlag _ _ r).trans (if_neg (h15 rfl))
  | load x bs hlen =>
    have hx : x.toNat < r.toNat := by simpa [isDestination] using hr
    rw [State.reg_setRegsFrom s 0 bs (by have := x.isLt; omega), List.getD_eq_default _ _ (by omega)]
    simp
  | _ => rfl

theorem flagByte_eq (f : Bool) : flagByte f = 0 ∨ flagByte f = 1 := by
  cases f
  · exact .inl rfl
  · exact .inr rfl

/-- The instructions that set the flag leave 0 or 1 in `V[15]`. -/
theorem Update.reg_vf {i : Instr} {s u : State} (hu : Update s i u) (hs : setsFlag i = true) :
    u.reg 15 = 0 ∨ u.reg 15 = 1 := by
  cases hu with
  | setResultFlag b f => simpa [State.reg_setResultFlag] using flagByte_eq f
  | blit x y n fb f => simpa [State.reg_setFlag] using flagByte_eq f
  | keep hf | setReg _ _ hf | setI _ _ hf | drawKey _ _ hf | store _ _ hf => simp [hf] at hs
  | _ => simp [setsFlag] at hs

/-- The memory list after an instruction is the one before, or a run of bytes was stored in range. -/
theorem Update.mem_eq {i : Instr} {s u : State} (hu : Update s i u) :
    u.mem = s.mem ∨ ∃ bs, rangeFault s.base bs.length = none ∧ u.mem = s.mem.writeRun s.base bs := by
  cases hu with
  | store bs _ _ hr => exact .inr ⟨bs, hr, rfl⟩
  | load => rw [State.setRegsFrom_eq]; exact .inl rfl
  | _ => exact .inl rfl

theorem exec_inv {i : Instr} {s t : State} (hs : s.Inv) (h : exec i s = .next t) : t.Inv := by
  rcases executed_of_exec h with ⟨f, rfl⟩ | ⟨rfl, -⟩ | ⟨u, d, hu, rfl⟩
  · exact hs
  · exact hs
  · unfold State.Inv
    rw [State.apply_mem]
    rcases hu.mem_eq with e | ⟨bs, hr, e⟩ <;> rw [e]
    · exact hs
    · rw [rangeFault_eq_none_iff, List.length_eq_zero_iff] at hr
      exact Memory.wf_writeRun hs hr

end Sys2Proof.Machine

/-! ### The statements about every instruction and every step -/

namespace Sys2Proof.Machine

/-- Settles O55: of all updates only a store in range changes the memory list, and it keeps the canonical form. -/
theorem stepKeepsMemoryCanonical : Obligations.StepKeepsMemoryCanonical := by
  intro s t hs h
  rcases step_next_cases h with ⟨-, -, ⟨f, rfl⟩ | ⟨i, -, he⟩⟩ | ⟨-, rfl⟩ | ⟨down, -, rfl⟩
  · exact hs
  · exact exec_inv (s := s.popTurn) hs he
  · exact hs
  · exact hs

/-- Settles O53: by the frame of every update. -/
theorem instructionsWriteTheirParts : Obligations.InstructionsWriteTheirParts :=
  fun _ _ _ => exec_onlyChanges

/-- Settles O54: by the register frame of every update; a fault or a held key wait changes no register. -/
theorem flagIsTheOnlySideEffect : Obligations.FlagIsTheOnlySideEffect := by
  intro i s t h
  rcases executed_of_exec h with ⟨f, rfl⟩ | ⟨rfl, x, rfl⟩ | ⟨u, d, hu, rfl⟩
  · exact ⟨fun r _ _ => State.reg_raise s f r, fun _ _ ht => by simp at ht⟩
  · exact ⟨fun _ _ _ => rfl, fun hs => by simp [setsFlag] at hs⟩
  · simp only [State.reg_apply]
    exact ⟨fun r hr h15 => hu.reg_eq hr h15, fun hs _ _ => hu.reg_vf hs⟩

/-- Settles O10: with a fault latched the core has no next state, and the other turns write their own parts. -/
theorem latchedFaultIsForEver : Obligations.LatchedFaultIsForEver := by
  intro s f hf
  refine ⟨fun ht => ?_, fun ht => ?_, fun t h => ?_⟩
  · rcases step_cases s with ⟨-, e⟩ | ⟨ht', -⟩ | ⟨down, ht', -⟩
    · rw [e, coreStep, State.popTurn_fault, hf]
    · cases ht.symm.trans ht'
    · cases ht.symm.trans ht'
  · rcases step_cases s with ⟨ht', -⟩ | ⟨-, e⟩ | ⟨down, -, e⟩
    · exact absurd ht' ht
    · exact ⟨_, e⟩
    · exact ⟨_, e⟩
  · rcases step_next_cases h with ⟨-, hnone, -⟩ | ⟨-, rfl⟩ | ⟨down, -, rfl⟩
    · cases hf.symm.trans hnone
    · exact ((onlyChanges_popTurn s).trans (onlyChanges_tick _)).mono (by simp)
    · exact ((onlyChanges_popTurn s).trans (onlyChanges_keys _ down)).mono (by simp)

/-- Settles O51: the keys are no part that an instruction may write. -/
theorem onlyProviderChangesKeys : Obligations.OnlyProviderChangesKeys := by
  refine ⟨fun s down ht => ?_, fun s t ht h => ?_⟩
  · rcases step_cases s with ⟨ht', -⟩ | ⟨ht', -⟩ | ⟨down', ht', e⟩ <;> cases ht.symm.trans ht'
    exact ⟨_, e, rfl, ((onlyChanges_popTurn s).trans (onlyChanges_keys _ down)).mono (by simp)⟩
  · rcases step_next_cases h with ⟨-, -, ⟨f, rfl⟩ | ⟨i, -, he⟩⟩ | ⟨-, rfl⟩ | ⟨down, ht', -⟩
    · rfl
    · exact exec_onlyChanges he .keys (by simp [keys_not_mem_partsWritten])
    · rfl
    · exact absurd ht' (ht down)

theorem tickTimer_toNat (b : Byte) : (tickTimer b).toNat = b.toNat - 1 := by
  unfold tickTimer
  split
  · next h => simp [h]
  · next h => exact BitVec.toNat_sub_of_le (BitVec.le_def.2 (Nat.one_le_iff_ne_zero.2 (BitVec.toNat_ne.1 h)))

/-- Settles O52: the tick lowers the timer, and `LD DT, Vx` is the one instruction that may write it. -/
theorem delayTimerOnlyFalls : Obligations.DelayTimerOnlyFalls := by
  intro s t h
  rcases step_next_cases h with ⟨ht, -, ⟨f, rfl⟩ | ⟨i, hi, he⟩⟩ | ⟨-, rfl⟩ | ⟨down, -, rfl⟩
  · exact .inl (Nat.le_refl _)
  · by_cases hdt : Part.dt ∈ partsWritten i
    · obtain ⟨x, rfl⟩ := (dt_mem_partsWritten_iff i).1 hdt
      cases Host.Outcome.next.inj he
      exact .inr ⟨x, ht, hi, rfl⟩
    · have hkept : t.dt = s.dt := exec_onlyChanges he .dt (by simp [hdt])
      exact .inl (Nat.le_of_eq (congrArg BitVec.toNat hkept))
  · exact .inl (by rw [State.tick_dt, tickTimer_toNat]; exact Nat.sub_le _ _)
  · exact .inl (Nat.le_refl _)

end Sys2Proof.Machine

/-! ### `PC`, the call stack, random bytes and keys -/

namespace Sys2Proof.Machine

/-- Settles O15: a fetch in range leaves `PC` at most `MEM_SIZE - 2`, far from 2^16. -/
theorem pcNeverWraps : Obligations.PcNeverWraps := by
  intro s w hw
  have hpc : s.pc.toNat + 2 ≤ Config.memSize := by
    rcases s.fetch_cases with ⟨h, -⟩ | ⟨-, e⟩
    · exact h
    · cases hw.symm.trans e
  unfold Config.memSize at hpc
  constructor
  · rw [State.apply_advance_pc]; bv_omega
  · rw [State.apply_skip_pc]; bv_omega

/-- With `n + 1` entries on the stack, `RET` jumps to `STK[n]` and leaves `n` entries. -/
theorem exec_ret_of_sp_eq_succ {s : State} {n : Nat} (hsp : s.sp.val = n + 1) (hn : n < Config.stackDepth) :
    exec .ret s = .next (({ s with sp := ⟨n, Nat.lt_succ_of_lt hn⟩ } : State).apply (.jump s.stk[n])) := by
  obtain ⟨_, h', e⟩ := (exec_ret_cases s).resolve_right fun h => by omega
  simpa [hsp] using e

/-- Settles O21: the return pops the entry that the call pushed. -/
theorem callThenRet : Obligations.CallThenRet := by
  intro nnn s hsp
  obtain ⟨h, hcall⟩ := (exec_call_cases nnn s).resolve_right fun h => absurd h.1 (Nat.ne_of_lt hsp)
  refine ⟨_, _, hcall, exec_ret_of_sp_eq_succ rfl h, by simp, rfl, by simp, fun k hk => ?_,
    (onlyChanges_stk s _).apply (.jump _)⟩
  simp [hk.symm]

/-- A register write and an advance, from a state `u` that has the registers of `s` (as a draw leaves it). -/
theorem onlyRegs_setReg_advance {s u : State} (hv : u.v = s.v) (x : Nibble) (b : Byte) :
    OnlyRegs [x] s ((u.setReg x b).apply .advance) := by
  intro r hr
  rw [State.reg_apply, State.reg_setReg_of_ne u b (by simpa using hr), State.reg_congr hv]

/-- Settles O46: the two clauses are the two cases of the draw. -/
theorem rndMasksDrawnByte : Obligations.RndMasksDrawnByte := by
  intro x kk s
  refine ⟨fun b rest hs => ?_, fun hs => ?_⟩
  · rcases exec_rnd_cases x kk s with ⟨b', rest', hs', e⟩ | ⟨hs', -⟩ <;> cases hs.symm.trans hs'
    exact ⟨_, e, by simp, by simp, by simp, onlyRegs_setReg_advance rfl x _,
      (((onlyChanges_source s rest).trans (onlyChanges_v _ _)).apply .advance).mono (by simp)⟩
  · rcases exec_rnd_cases x kk s with ⟨b', rest', hs', -⟩ | ⟨-, e⟩
    · cases hs.symm.trans hs'
    exact ⟨_, e, by simp, by simp, by simp, onlyRegs_setReg_advance rfl x _,
      (((onlyChanges_draws s _).trans (onlyChanges_v _ _)).apply .advance).mono (by simp)⟩

theorem State.apply_skipIf_not_pc (s : State) (c : Bool) :
    (s.apply (skipIf (!c))).pc = if c then s.pc + 2 else s.pc + 4 := by
  cases c <;> rfl

/-- Settles O47: below 16 the query is the key's state and draws nothing, above it is the free answer. -/
theorem keySkips : Obligations.KeySkips := by
  intro x s
  refine ⟨fun k hk => ?_, fun hhigh => ?_⟩
  · have hlow : ¬ Config.nKeys ≤ (s.reg x).toNat := Nat.not_le.2 (hk ▸ k.isLt)
    obtain ⟨h, hskp⟩ := (exec_skp_cases x s).resolve_right fun h => hlow h.1
    obtain ⟨_, hsknp⟩ := (exec_sknp_cases x s).resolve_right fun h => hlow h.1
    have hkey : s.keys[(s.reg x).toNat] = s.keys[k] := by simp [hk]
    rw [hkey] at hskp hsknp
    exact ⟨⟨_, hskp, State.apply_skipIf_pc _ _, (OnlyChanges.refl s).apply _⟩,
      _, hsknp, State.apply_skipIf_not_pc _ _, (OnlyChanges.refl s).apply _⟩
  · obtain ⟨-, hskp⟩ := (exec_skp_cases x s).resolve_left fun ⟨h, _⟩ => absurd h (Nat.not_lt.2 hhigh)
    obtain ⟨-, hsknp⟩ := (exec_sknp_cases x s).resolve_left fun ⟨h, _⟩ => absurd h (Nat.not_lt.2 hhigh)
    exact ⟨⟨_, hskp, State.apply_skipIf_pc _ _, by simp, (onlyChanges_draws s _).apply _⟩,
      _, hsknp, State.apply_skipIf_not_pc _ _, by simp, (onlyChanges_draws s _).apply _⟩

end Sys2Proof.Machine

/-! ### The font table and the loader -/

namespace Sys2Proof.Machine

theorem unlistedByte_of_entry_le {a : Nat} (h : Config.entry ≤ a) : unlistedByte a = 0 := if_pos h

theorem length_fontTable : fontTable.length = 80 := by decide

/-- The font table ends at or below `ENTRY` (R4). -/
theorem fontBase_add_le : Config.fontBase.val + 80 ≤ 512 := by
  have : Config.fontBase.val < 512 - 80 + 1 := Config.fontBase.isLt
  omega

/-- Below `ENTRY` but outside the font table, memory starts as 0. -/
theorem unlistedByte_outside_font {a : Nat} (h : a < Config.fontBase.val ∨ Config.fontBase.val + 80 ≤ a) :
    unlistedByte a = 0 := by
  unfold unlistedByte
  rcases h with h | h
  · simp [Nat.not_le.2 h]
  · rw [List.getD_eq_default _ _ (by rw [length_fontTable]; omega)]
    simp

theorem fontBase_add_lt_entry {k : Nat} {b : Byte} (h : fontTable[k]? = some b) :
    Config.fontBase.val + k < Config.entry := by
  have hk : k < fontTable.length := (List.getElem?_eq_some_iff.1 h).1
  rw [length_fontTable] at hk
  exact Nat.lt_of_lt_of_le (Nat.add_lt_add_left hk _) fontBase_add_le

/-- Byte `k` of the font table stands at `FONT_BASE + k` where the font is preloaded. -/
theorem unlistedByte_font {k : Nat} {b : Byte} (h : fontTable[k]? = some b) :
    unlistedByte (Config.fontBase.val + k) = if Config.fontPreloaded then b else 0 := by
  unfold unlistedByte
  rw [if_neg (Nat.not_le.2 (fontBase_add_lt_entry h))]
  simp [h, List.getD]

theorem Memory.read_of_not_listed {m : Memory} {a : Nat} (h : ∀ c ∈ m, c.1 ≠ a) :
    m.read a = unlistedByte a := by
  induction m with
  | nil => rfl
  | cons c m ih =>
    obtain ⟨hc, hm⟩ := List.forall_mem_cons.1 h
    exact (if_neg hc).trans (ih hm)

/-- Sprite `d` is the five bytes of the font table from offset `5 * d` on (R133). -/
def digitSprite (d : Nat) : List Byte := (fontTable.drop (5 * d)).take 5

/-- `LD F, Vx` on a digit points `I` at its offset in the font table, below 2^16. -/
theorem fontAddr_toNat_of_digit {d : Nat} (hd : d < 16) :
    (fontAddr (BitVec.ofNat 8 d)).toNat = Config.fontBase.val + 5 * d := by
  have hd8 : (BitVec.ofNat 8 d).toNat = d := by rw [BitVec.toNat_ofNat]; omega
  have := fontBase_add_le
  unfold fontAddr
  rw [hd8, if_pos (by omega), BitVec.toNat_ofNat, Nat.mod_eq_of_lt (by omega)]

/-- Settles O41: `I` points into the font table, below every listed address. -/
theorem fontSpriteAtI : Obligations.FontSpriteAtI := by
  intro x s d sprite hsprite hx hmem
  have hdigit : (d, sprite) ∈ (List.range 16).map fun n => (BitVec.ofNat 8 n, digitSprite n) := hsprite
  obtain ⟨n, hn, ⟨⟩⟩ := List.mem_map.1 hdigit
  rw [List.mem_range] at hn
  refine ⟨(s.setI (fontAddr (s.reg x))).apply .advance, rfl, fun k b hb => ?_⟩
  obtain ⟨hk, hb⟩ : k < 5 ∧ fontTable[5 * n + k]? = some b := by
    simpa [digitSprite, List.getElem?_take] using hb
  have hbelow : Config.fontBase.val + (5 * n + k) < 512 := fontBase_add_lt_entry hb
  rw [State.apply_i, State.setI_i, State.byteAt_apply, State.byteAt_setI, hx, fontAddr_toNat_of_digit hn,
    Nat.add_assoc, ← unlistedByte_font hb]
  exact Memory.read_of_not_listed fun c hc => Nat.ne_of_gt (Nat.lt_of_lt_of_le hbelow (hmem c hc))

/-- Settles O56: the image is one run of writes into empty memory, so that all other bytes read as unlisted. -/
theorem resetWithImage : Obligations.ResetWithImage := by
  intro image hlen
  have hload : State.reset.load image =
      .next { State.reset with mem := Memory.writeRun [] Config.entry image } := by
    simp only [State.load, imageFits, Config.memSize, Config.entry, hlen, decide_true, if_true]
    rfl
  refine ⟨_, hload, fun r => ?_, rfl, rfl, rfl, rfl, rfl, rfl, fun k hk => ?_, fun r c _ _ => ?_,
    fun k hk => ?_, fun a ha => ?_, fun a ha hfont => ?_, fun k f hf => ?_, ?_⟩
  · simp [State.reg, State.reset]
  · simp [State.reset, hk]
  · simp [FrameBuffer.pixel, State.reset]
  · rw [List.getElem?_eq_getElem hk]
    exact congrArg some (Memory.read_writeRun_of_lt rfl _ image hk).symm
  · exact (Memory.read_writeRun_of_outside [] image (.inr ha)).trans
      (unlistedByte_of_entry_le (Nat.le_trans (Nat.le_add_right _ _) ha))
  · exact (Memory.read_writeRun_of_outside [] image (.inl ha)).trans (unlistedByte_outside_font hfont)
  · exact (Memory.read_writeRun_of_outside [] image (.inl (fontBase_add_lt_entry hf))).trans
      (unlistedByte_font hf)
  · exact Memory.wf_writeRun rfl (.inr (by simp only [Config.entry, Config.memSize]; omega))

end Sys2Proof.Machine

/-! ### Drawing a whole sprite (42_display.md R122) -/

namespace Sys2Proof.Machine

theorem rowSets_iff (b : Byte) (x0 : Nat) (cs : List Nat) (c : Nat) :
    rowSets b x0 cs c = true ↔
      ∃ k ∈ cs, b.getLsbD (7 - k) = true ∧ c % Config.dispW = (x0 + k) % Config.dispW := by
  simp [rowSets]

/-- The sprite rows `bs`, drawn from row `r0` and column `x0`, have a 1 for display pixel `(r, c)`. -/
def rowsSet (x0 : Nat) : Nat → List Byte → Nat → Nat → Bool
  | _, [], _, _ => false
  | r0, b :: bs, r, c =>
    (decide (r % Config.dispH = r0 % Config.dispH) && rowSets b x0 (List.range 8) c) ||
      rowsSet x0 (r0 + 1) bs r c

theorem rowsSet_iff (x0 r0 : Nat) (bs : List Byte) (r c : Nat) :
    rowsSet x0 r0 bs r c = true ↔
      ∃ k b, bs[k]? = some b ∧ r % Config.dispH = (r0 + k) % Config.dispH ∧
        rowSets b x0 (List.range 8) c = true := by
  induction bs generalizing r0 with
  | nil => simp [rowsSet]
  | cons b bs ih =>
    rw [rowsSet, Bool.or_eq_true, Bool.and_eq_true, decide_eq_true_eq, ih]
    constructor
    · rintro (⟨hr, hc⟩ | ⟨k, b', hk, hr, hc⟩)
      · exact ⟨0, b, rfl, hr, hc⟩
      · exact ⟨k + 1, b', hk, by rw [hr, Nat.add_right_comm, Nat.add_assoc], hc⟩
    · rintro ⟨_ | k, b', hk, hr, hc⟩
      · cases hk
        exact .inl ⟨hr, hc⟩
      · exact .inr ⟨k, b', hk, by rw [hr, Nat.add_right_comm, Nat.add_assoc], hc⟩

/-- Up to `DISP_H - 1` further rows do not come back to row `r0`. -/
theorem row_ne_of_rowsSet {x0 r0 : Nat} {bs : List Byte} {r c : Nat} (hlen : bs.length < Config.dispH)
    (h : rowsSet x0 (r0 + 1) bs r c = true) : r % Config.dispH ≠ r0 % Config.dispH := by
  obtain ⟨k, b, hk, hr, -⟩ := (rowsSet_iff _ _ _ _ _).1 h
  have hk : k < bs.length := (List.getElem?_eq_some_iff.1 hk).1
  rw [hr]
  unfold Config.dispH at *
  omega

/-- One sprite row collides iff it has a 1 for a pixel that was set. -/
theorem Blit.row_hit_iff (p : Blit) (r0 x0 : Nat) (b : Byte) :
    (p.row r0 x0 b).hit = true ↔ p.hit = true ∨
      ∃ r c, (r % Config.dispH = r0 % Config.dispH ∧ rowSets b x0 (List.range 8) c = true) ∧
        p.fb.pixel r c = true := by
  rw [(p.row_spec r0 x0 b).2]
  refine or_congr Iff.rfl ⟨?_, ?_⟩
  · rintro ⟨k, hk, hb, hp⟩
    exact ⟨r0, x0 + k, ⟨rfl, (rowSets_iff _ _ _ _).2 ⟨k, List.mem_range.2 hk, hb, rfl⟩⟩, hp⟩
  · rintro ⟨r, c, ⟨hr, hc⟩, hp⟩
    obtain ⟨k, hk, hb, hc⟩ := (rowSets_iff _ _ _ _).1 hc
    exact ⟨k, List.mem_range.1 hk, hb, FrameBuffer.pixel_congr p.fb hr hc ▸ hp⟩

/-- A sprite of at most `DISP_H` rows is XORed onto the display, and collides iff it has a 1 for a pixel that
was set: its rows lie on different display rows, so none sees what another has drawn. -/
theorem Blit.rows_spec (p : Blit) (x0 r0 : Nat) (bs : List Byte) (hlen : bs.length ≤ Config.dispH) :
    (∀ r c, (p.rows x0 r0 bs).fb.pixel r c = (p.fb.pixel r c ^^ rowsSet x0 r0 bs r c)) ∧
    ((p.rows x0 r0 bs).hit = true ↔
      p.hit = true ∨ ∃ r c, rowsSet x0 r0 bs r c = true ∧ p.fb.pixel r c = true) := by
  induction bs generalizing p r0 with
  | nil => simp [Blit.rows, rowsSet]
  | cons b bs ih =>
    obtain ⟨ihPixel, ihHit⟩ := ih (p.row r0 x0 b) (r0 + 1) (Nat.le_of_succ_le hlen)
    have hrow := (p.row_spec r0 x0 b).1
    have apart {r c} (h : rowsSet x0 (r0 + 1) bs r c = true) := row_ne_of_rowsSet hlen h
    constructor
    · intro r c
      rw [Blit.rows, ihPixel, hrow, rowsSet]
      by_cases h : rowsSet x0 (r0 + 1) bs r c = true
      · simp [h, apart h]
      · simp [h]
    · have kept (r c) (h : rowsSet x0 (r0 + 1) bs r c = true) :
          (p.row r0 x0 b).fb.pixel r c = p.fb.pixel r c := by simp [hrow, apart h]
      rw [Blit.rows, ihHit, Blit.row_hit_iff, or_assoc]
      refine or_congr Iff.rfl ?_
      simp only [rowsSet, Bool.or_eq_true, Bool.and_eq_true, decide_eq_true_eq, or_and_right, exists_or]
      refine or_congr Iff.rfl (exists_congr fun r => exists_congr fun c => and_congr_right fun h => ?_)
      rw [kept r c h]

theorem State.getElem?_spriteBytes_eq_some_iff (s : State) (n : Nibble) (k : Nat) (b : Byte) :
    (s.spriteBytes n)[k]? = some b ↔ k < n.toNat ∧ s.byteAt (s.i.toNat + k) = b := by
  by_cases hk : k < n.toNat <;> simp [State.spriteBytes, State.base, hk]

/-- The sprite rows read from memory have a 1 for exactly the pixels R120 says. -/
theorem State.spriteSets_iff (s : State) (x y n : Nibble) {r c : Nat} (hr : r < 32) (hc : c < 64) :
    s.spriteSets x y n r c ↔
      rowsSet (s.reg x).toNat (s.reg y).toNat (s.spriteBytes n) r c = true := by
  have hr' : r % Config.dispH = r := Nat.mod_eq_of_lt hr
  have hc' : c % Config.dispW = c := Nat.mod_eq_of_lt hc
  simp only [rowsSet_iff, rowSets_iff, State.getElem?_spriteBytes_eq_some_iff, List.mem_range, hr', hc']
  constructor
  · rintro ⟨k, j, hk, hj, hb, hrk, hcj⟩
    exact ⟨k, _, ⟨hk, rfl⟩, hrk, j, hj, hb, hcj⟩
  · rintro ⟨k, b, ⟨hk, rfl⟩, hrk, j, hj, hb, hcj⟩
    exact ⟨k, j, hk, hj, hb, hrk, hcj⟩

/-- A draw in range, in the terms of R120 and R122: the pixels and the collision. -/
theorem State.blit_spec (s : State) (x y n : Nibble) :
    (∀ r c, r < 32 → c < 64 →
      (s.spriteSets x y n r c → (s.blit x y n).fb.pixel r c = !s.fb.pixel r c) ∧
      (¬ s.spriteSets x y n r c → (s.blit x y n).fb.pixel r c = s.fb.pixel r c)) ∧
    ((s.blit x y n).hit = true ↔
      ∃ r c, r < 32 ∧ c < 64 ∧ s.spriteSets x y n r c ∧ s.fb.pixel r c = true) := by
  have hlen : (s.spriteBytes n).length ≤ Config.dispH := by
    have : n.toNat < 16 := n.isLt
    simp only [State.spriteBytes, List.length_map, List.length_range, Config.dispH]
    omega
  obtain ⟨hpixel, hhit⟩ := Blit.rows_spec ⟨s.fb, false⟩ (s.reg x).toNat (s.reg y).toNat (s.spriteBytes n) hlen
  constructor
  · intro r c hr hc
    rw [s.spriteSets_iff x y n hr hc, State.blit, hpixel]
    constructor <;> intro h <;> simp [h]
  · rw [State.blit, hhit]
    constructor
    · rintro (h | ⟨r, c, hset, hp⟩)
      · cases h
      have hr := Nat.mod_lt r (show 0 < 32 by decide)
      have hc := Nat.mod_lt c (show 0 < 64 by decide)
      refine ⟨r % 32, c % 64, hr, hc, (s.spriteSets_iff x y n hr hc).2 ?_, ?_⟩
      · rw [rowsSet_iff] at hset ⊢
        simpa [rowSets, Config.dispH, Config.dispW] using hset
      · exact (FrameBuffer.pixel_congr s.fb (Nat.mod_mod _ _) (Nat.mod_mod _ _)).trans hp
    · rintro ⟨r, c, hr, hc, hset, hp⟩
      exact .inr ⟨r, c, (s.spriteSets_iff x y n hr hc).1 hset, hp⟩

/-- Settles O35: in range the blit is the pixel law and the flag its collision; out of range the draw raises the
fault of its bounds check. -/
theorem drwXorsSprite : Obligations.DrwXorsSprite := by
  intro x y n s
  obtain ⟨hpixel, hhit⟩ := s.blit_spec x y n
  refine ⟨fun hin => ?_, fun ⟨hn, hout⟩ => ?_⟩
  · have hrange : rangeFault s.base n.toNat = none := by
      rw [rangeFault_eq_none_iff, State.base, Config.memSize]
      omega
    rcases exec_drw_cases x y n s with ⟨-, e⟩ | ⟨f, hf, -⟩
    swap
    · cases hrange.symm.trans hf
    refine ⟨_, e, hpixel, fun h => ?_, fun h => ?_, rfl, fun r hr => ?_,
      (((onlyChanges_fb s _).trans (onlyChanges_v _ _)).apply .advance).mono (by simp)⟩
    · rw [State.reg_apply, State.reg_setFlag, hhit.2 h]; rfl
    · rw [State.reg_apply, State.reg_setFlag, Bool.eq_false_iff.2 (mt hhit.1 h)]; rfl
    · rw [State.reg_apply, State.reg_setFlag]
      exact if_neg (by simpa using hr)
  · rcases exec_drw_cases x y n s with ⟨hrange, -⟩ | ⟨f, hf, e⟩
    · rw [rangeFault_eq_none_iff, State.base, Config.memSize] at hrange
      omega
    · obtain ⟨-, rfl⟩ := (rangeFault_eq_some_iff _ _ _).1 hf
      exact ⟨_, e, rfl, onlyChanges_raise s _⟩

end Sys2Proof.Machine

/-! ### Memory accesses: range checks, precise faults, and a fetch that sees a store (20_memory.md) -/

namespace Sys2Proof.Machine

theorem fault_not_mem_partsWritten (i : Instr) : Part.fault ∉ partsWritten i := by
  cases i <;> simp [partsWritten]

/-- Settles O11: a raise changes the latch alone, and every other way to execute leaves the latch as it was. -/
theorem faultsArePrecise : Obligations.FaultsArePrecise := by
  intro i s t f hs h ht
  rcases executed_of_exec h with ⟨g, rfl⟩ | ⟨rfl, -⟩ | ⟨u, d, hu, rfl⟩
  · exact onlyChanges_raise s g
  · cases hs.symm.trans ht
  · have hkept : (u.apply d).fault = s.fault :=
      hu.onlyChanges.apply d .fault (by simp [fault_not_mem_partsWritten])
    cases (hkept.trans hs).symm.trans ht

/-- Settles O13: the last address of an access decides whether it is in range; the lowest one out of range is
the larger of the base and `MEM_SIZE`. -/
theorem lowestBadAddressIsReported : Obligations.LowestBadAddressIsReported := by
  intro base count
  refine ⟨?_, fun a => ?_⟩
  · rw [rangeFault_eq_none_iff, Config.memSize]
    constructor
    · intro h k hk
      omega
    · intro h
      have hlast := h (count - 1)
      omega
  · rw [rangeFault_eq_some_iff, Fault.outOfRangeMemoryAccess.injEq, Config.memSize]
    constructor
    · rintro ⟨⟨hpos, hout⟩, rfl⟩
      exact ⟨⟨max base 4096 - base, by omega, by omega⟩, by omega, fun k _ hk => by omega⟩
    · rintro ⟨⟨k, hk, rfl⟩, hbad, hlowest⟩
      have hmax := hlowest (max base 4096 - base) (by omega) (by omega)
      omega

theorem toNat_append_byte (hi lo : Byte) : (hi ++ lo).toNat = 256 * hi.toNat + lo.toNat := by
  rw [BitVec.toNat_append, ← Nat.shiftLeft_add_eq_or_of_lt lo.isLt, Nat.shiftLeft_eq, Nat.mul_comm]

/-- Settles O7: the two cases of the fetch, with the big-endian word as a number. -/
theorem fetchReadsWordAtPc : Obligations.FetchReadsWordAtPc := by
  intro s
  rcases s.fetch_cases with ⟨hin, e⟩ | ⟨hout, e⟩
  · exact ⟨fun _ => ⟨_, e, toNat_append_byte _ _⟩, fun h => absurd h (Nat.not_le.2 hin)⟩
  · exact ⟨fun h => absurd h (Nat.not_lt.2 (Nat.le_of_lt_succ hout)), fun _ => e⟩

/-- After the block store of `V[0]` to `V[x]`, the byte at `I + k` is `V[k]` (R51, R135). -/
theorem State.read_writeRun_regsUpTo {s : State} (hs : s.Inv) {x : Nibble} {k : Nat} (hk : k ≤ x.toNat) :
    (s.mem.writeRun s.base (s.regsUpTo x)).read (s.base + k) = s.reg (BitVec.ofNat 4 k) := by
  rw [Memory.read_writeRun_of_lt hs _ _ (by simpa using Nat.lt_succ_of_le hk)]
  simp [State.regsUpTo]

/-- A block store whose last address is below `MEM_SIZE` raises no fault. -/
theorem exec_ldMem_of_base_add_lt {x : Nibble} {s : State} (h : s.base + x.toNat < Config.memSize) :
    exec (.ldMemVx x) s =
      .next (({ s with mem := s.mem.writeRun s.base (s.regsUpTo x) } : State).apply .advance) := by
  rcases exec_ldMem_cases x s with ⟨-, e⟩ | ⟨f, hf, -⟩
  · exact e
  · cases ((rangeFault_eq_none_iff _ _).2 (.inr h)).symm.trans hf

/-- Settles O45: the store is in range, and the advanced `PC` is `I`, where it has put `V[0]` and `V[1]`. -/
theorem fetchSeesStoredInstruction : Obligations.FetchSeesStoredInstruction := by
  intro x s t hs hpc hx hi hix h
  have ht := Host.Outcome.next.inj ((exec_ldMem_of_base_add_lt hix).symm.trans h)
  have hbyte {k : Nat} (hk : k ≤ x.toNat) : t.byteAt (s.base + k) = s.reg (BitVec.ofNat 4 k) := by
    rw [← ht, State.byteAt_apply, State.byteAt, State.read_writeRun_regsUpTo hs hk]
  have hnext : t.pc.toNat = s.base := by
    rw [← ht, State.apply_advance_pc, State.base]
    bv_omega
  obtain ⟨w, hw, hval⟩ := (fetchReadsWordAtPc t).1 (by rw [hnext, State.base]; omega)
  have hbyte0 : t.byteAt s.base = s.reg 0 := hbyte (Nat.zero_le _)
  have hbyte1 : t.byteAt (s.base + 1) = s.reg 1 := hbyte hx
  exact ⟨w, hw, by rw [hval, hnext, hbyte0, hbyte1]⟩

end Sys2Proof.Machine

/-! ### The decoder and the encoder: every instruction and every word (30_encoding.md R60 to R68) -/

namespace Sys2Proof

/-- Settles O1: in the word of an instruction the class selects the decoder's arm, the sub-opcode the row, and
each operand is read back from its field. -/
theorem decodeOfEncode : Obligations.DecodeOfEncode := by
  intro i
  cases i
  case cls | ret => rfl
  case jpNnn | callNnn | ldINnn | jpV0Nnn =>
    simp [encode, decodeWord, opField_formatA, nnnField_formatA]
  case seVxKk | sneVxKk | ldVxKk | addVxKk | rndVxKk =>
    simp [encode, decodeWord, opField_formatXK, xField_formatXK, kkField_formatXK]
  case seVxVy | sneVxVy | drwVxVyN =>
    simp [encode, decodeWord, opField_formatXYN, xField_formatXYN, yField_formatXYN, nField_formatXYN]
  case ldVxVy | orVxVy | andVxVy | xorVxVy | addVxVy | subVxVy | shrVx | subnVxVy | shlVx =>
    simp [encode, decodeWord, decodeClass8, opField_formatXYN, xField_formatXYN, yField_formatXYN,
      nField_formatXYN]
  case skpVx | sknpVx =>
    simp [encode, decodeWord, decodeClassE, opField_formatXK, xField_formatXK, kkField_formatXK]
  case ldVxDt | ldVxKey | ldDtVx | ldStVx | addIVx | ldFVx | ldBVx | ldMemVx | ldVxMem =>
    simp [encode, decodeWord, decodeClassF, opField_formatXK, xField_formatXK, kkField_formatXK]

/-! A word is rebuilt from its fields once its class, and its sub-opcode where it has one, are known. -/

theorem formatA_of_class {w : Word} {op : Nibble} (hop : (opField w).toNat = op.toNat) :
    formatA op (nnnField w) = w := by
  rw [← BitVec.eq_of_toNat_eq hop, formatA_fields]

theorem formatXK_of_class {w : Word} {op : Nibble} (hop : (opField w).toNat = op.toNat) :
    formatXK op (xField w) (kkField w) = w := by
  rw [← BitVec.eq_of_toNat_eq hop, formatXK_fields]

theorem formatXK_of_byte {w : Word} {op : Nibble} {kk : Byte} (hop : (opField w).toNat = op.toNat)
    (hkk : (kkField w).toNat = kk.toNat) : formatXK op (xField w) kk = w := by
  rw [← BitVec.eq_of_toNat_eq hkk, formatXK_of_class hop]

theorem formatXYN_of_class {w : Word} {op : Nibble} (hop : (opField w).toNat = op.toNat) :
    formatXYN op (xField w) (yField w) (nField w) = w := by
  rw [← BitVec.eq_of_toNat_eq hop, formatXYN_fields]

theorem formatXYN_of_nibble {w : Word} {op n : Nibble} (hop : (opField w).toNat = op.toNat)
    (hn : (nField w).toNat = n.toNat) : formatXYN op (xField w) (yField w) n = w := by
  rw [← BitVec.eq_of_toNat_eq hn, formatXYN_of_class hop]

theorem opField_toNat (w : Word) : (opField w).toNat = w.toNat / 0x1000 := by
  have := w.isLt
  simp only [opField, BitVec.extractLsb'_toNat, Nat.shiftRight_eq_div_pow]
  omega

theorem nField_toNat (w : Word) : (nField w).toNat = w.toNat % 0x10 := by simp [nField]

theorem kkField_toNat (w : Word) : (kkField w).toNat = w.toNat % 0x100 := by simp [kkField]

/-- The list of R67 in terms of the fields of R61. -/
theorem wordUnknown_eq (w : Word) :
    wordUnknown w =
      (((opField w).toNat == 0 && w != 0x00E0 && w != 0x00EE)
        || ((opField w).toNat == 5 && (nField w).toNat != 0)
        || ((opField w).toNat == 8 && [8, 9, 10, 11, 12, 13, 15].contains (nField w).toNat)
        || ((opField w).toNat == 9 && (nField w).toNat != 0)
        || ((opField w).toNat == 14 && !([0x9E, 0xA1].contains (kkField w).toNat))
        || ((opField w).toNat == 15 &&
          !([0x07, 0x0A, 0x15, 0x18, 0x1E, 0x29, 0x33, 0x55, 0x65].contains (kkField w).toNat))) := by
  rw [opField_toNat, nField_toNat, kkField_toNat]
  rfl

/-- The classes in which every word is defined (R67). -/
theorem wordUnknown_of_full_class {w : Word} (h : (opField w).toNat ∉ [0, 5, 8, 9, 14, 15]) :
    wordUnknown w = false := by
  simp_all [wordUnknown_eq]

/-! What the decoder can answer, said once: first for each class that has unknown words, then for every word. -/

/-- What the decoder can answer for `w`: an instruction whose word is `w`, where R67 does not list `w`, or the
error with `w`, where it does. -/
def DecodeAnswer (w : Word) (r : Except DecodeError Instr) : Prop :=
  (∃ i, r = .ok i ∧ encode i = w ∧ wordUnknown w = false) ∨
    (r = .error (.unknownOpcode w) ∧ wordUnknown w = true)

theorem decodeClass0_answer {w : Word} (hop : (opField w).toNat = 0) : DecodeAnswer w (decodeClass0 w) := by
  unfold decodeClass0
  split
  · next h => subst h; exact .inl ⟨.cls, rfl, rfl, rfl⟩
  · split
    · next h => subst h; exact .inl ⟨.ret, rfl, rfl, rfl⟩
    · exact .inr ⟨rfl, by simp_all [wordUnknown_eq]⟩

theorem decodeClass8_answer {w : Word} (hop : (opField w).toNat = 8) : DecodeAnswer w (decodeClass8 w) := by
  have hlt : (nField w).toNat < 16 := (nField w).isLt
  unfold decodeClass8
  split
  case h_10 =>
    simp only [imp_false] at *
    exact .inr ⟨rfl, by simp [wordUnknown_eq, hop]; omega⟩
  all_goals next hn => exact .inl ⟨_, rfl, formatXYN_of_nibble hop hn, by simp [wordUnknown_eq, hop, hn]⟩

theorem decodeClassE_answer {w : Word} (hop : (opField w).toNat = 14) : DecodeAnswer w (decodeClassE w) := by
  unfold decodeClassE
  split
  case h_3 => exact .inr ⟨rfl, by simp_all [wordUnknown_eq]⟩
  all_goals next hkk => exact .inl ⟨_, rfl, formatXK_of_byte hop hkk, by simp [wordUnknown_eq, hop, hkk]⟩

theorem decodeClassF_answer {w : Word} (hop : (opField w).toNat = 15) : DecodeAnswer w (decodeClassF w) := by
  unfold decodeClassF
  split
  case h_10 => exact .inr ⟨rfl, by simp_all [wordUnknown_eq]⟩
  all_goals next hkk => exact .inl ⟨_, rfl, formatXK_of_byte hop hkk, by simp [wordUnknown_eq, hop, hkk]⟩

theorem decodeWord_answer (w : Word) : DecodeAnswer w (decodeWord w) := by
  have hlt : (opField w).toNat < 16 := (opField w).isLt
  unfold decodeWord
  split
  case h_1 hop => exact decodeClass0_answer hop
  case h_9 hop => exact decodeClass8_answer hop
  case h_15 hop => exact decodeClassE_answer hop
  case h_16 =>
    simp only [imp_false] at *
    exact decodeClassF_answer (by omega)
  case h_6 hop | h_10 hop =>
    split
    · next hn => exact .inl ⟨_, rfl, formatXYN_of_nibble hop (congrArg _ hn), by simp [wordUnknown_eq, hop, hn]⟩
    · next hn => exact .inr ⟨rfl, by simpa [wordUnknown_eq, hop, ← BitVec.toNat_inj] using hn⟩
  case h_2 hop | h_3 hop | h_11 hop | h_12 hop =>
    exact .inl ⟨_, rfl, formatA_of_class hop, wordUnknown_of_full_class (by simp [hop])⟩
  case h_4 hop | h_5 hop | h_7 hop | h_8 hop | h_13 hop =>
    exact .inl ⟨_, rfl, formatXK_of_class hop, wordUnknown_of_full_class (by simp [hop])⟩
  case h_14 hop => exact .inl ⟨_, rfl, formatXYN_of_class hop, wordUnknown_of_full_class (by simp [hop])⟩

/-- Settles O2: by the answers of the decoder. -/
theorem encodeOfDecode : Obligations.EncodeOfDecode := by
  intro w i h
  rcases decodeWord_answer w with ⟨i', hi', hword, -⟩ | ⟨herr, -⟩
  · cases h.symm.trans hi'
    exact hword
  · cases h.symm.trans herr

theorem wordUnknown_of_decodeWord_error {w : Word} {e : DecodeError} (h : decodeWord w = .error e) :
    wordUnknown w = true := by
  rcases decodeWord_answer w with ⟨i, hi, -, -⟩ | ⟨-, hlisted⟩
  · cases h.symm.trans hi
  · exact hlisted

/-- Settles O4: by the answers of the decoder. -/
theorem decodingIsTotal : Obligations.DecodingIsTotal := by
  intro w
  rcases decodeWord_answer w with ⟨i, hi, -, hknown⟩ | ⟨herr, hlisted⟩
  · exact ⟨fun h => absurd (h.symm.trans hknown) (by decide), fun _ => ⟨i, hi⟩⟩
  · exact ⟨fun _ => herr, fun h => absurd (h.symm.trans hlisted) (by decide)⟩

/-- Settles O5: the decoder evaluates on each of the eight words. -/
theorem listedWordsDecode : Obligations.ListedWordsDecode := by
  unfold Obligations.ListedWordsDecode
  decide

end Sys2Proof

/-! ### The opcode map selects what the decoder decodes (30_encoding.md R64, R65) -/

namespace Sys2Proof

theorem opcodeMap_mnemonic_inj {r r' : OpRow} (hr : r ∈ opcodeMap) (hr' : r' ∈ opcodeMap)
    (h : r.mnemonic = r'.mnemonic) : r = r' :=
  List.inj_on_of_nodup_map (by decide : (opcodeMap.map OpRow.mnemonic).Nodup) hr hr' h

/-- A word is selected by one row at most: the patterns of two rows differ in a bit that both compare. -/
theorem opRow_eq_of_selects {w : Word} {r r' : OpRow} (hr : r ∈ opcodeMap) (hr' : r' ∈ opcodeMap)
    (h : w &&& r.mask = r.pattern) (h' : w &&& r'.mask = r'.pattern) : r = r' := by
  have hdiffer : ∀ r ∈ opcodeMap, ∀ r' ∈ opcodeMap,
      r.pattern &&& r'.mask = r'.pattern &&& r.mask → r = r' := by decide
  refine hdiffer r hr r' hr' ?_
  rw [← h, ← h', BitVec.and_assoc, BitVec.and_comm r.mask, ← BitVec.and_assoc]

/-- A field that the mask keeps whole is the pattern's. -/
theorem extractLsb'_of_selects {w m p : Word} {start len : Nat}
    (hm : m.extractLsb' start len = BitVec.allOnes len) (h : w &&& m = p) :
    w.extractLsb' start len = p.extractLsb' start len := by
  rw [← h, BitVec.extractLsb'_and, hm, BitVec.and_allOnes]

/-- No row selects a word that R67 lists: the list looks at the fields that the rows of the class compare, so a
word is listed iff the pattern it meets is, and no pattern is. -/
theorem wordUnknown_of_selects {r : OpRow} (hr : r ∈ opcodeMap) {w : Word} (h : w &&& r.mask = r.pattern) :
    wordUnknown w = false := by
  have hpattern : ∀ r ∈ opcodeMap, wordUnknown r.pattern = false := by decide
  have hmask : ∀ r ∈ opcodeMap, opField r.mask = BitVec.allOnes 4 := by decide
  have hop : opField w = opField r.pattern := extractLsb'_of_selects (hmask r hr) h
  rw [← hpattern r hr]
  rw [opcodeMap, List.mem_append, List.mem_append] at hr
  rcases hr with (hclass | hnibble) | hbyte
  · have hrows : ∀ r ∈ opcodeMapByClass,
        r.mask = BitVec.allOnes 16 ∨ (opField r.pattern).toNat ∉ [0, 5, 8, 9, 14, 15] := by decide
    rcases hrows r hclass with hwhole | hfull
    · rw [← h, hwhole, BitVec.and_allOnes]
    · rw [wordUnknown_of_full_class hfull, wordUnknown_of_full_class (hop ▸ hfull)]
  · have hrows : ∀ r ∈ opcodeMapByNibble, nField r.mask = BitVec.allOnes 4 ∧
        ((opField r.pattern).toNat = 5 ∨ (opField r.pattern).toNat = 8 ∨ (opField r.pattern).toNat = 9) := by
      decide
    obtain ⟨hkeep, hp⟩ := hrows r hnibble
    have hn : nField w = nField r.pattern := extractLsb'_of_selects hkeep h
    rcases hp with hp | hp | hp <;> simp [wordUnknown_eq, hop, hn, hp]
  · have hrows : ∀ r ∈ opcodeMapByByte, kkField r.mask = BitVec.allOnes 8 ∧
        ((opField r.pattern).toNat = 14 ∨ (opField r.pattern).toNat = 15) := by decide
    obtain ⟨hkeep, hp⟩ := hrows r hbyte
    have hkk : kkField w = kkField r.pattern := extractLsb'_of_selects hkeep h
    rcases hp with hp | hp <;> simp [wordUnknown_eq, hop, hkk, hp]

/-- The laws of the single instructions, gathered: every instruction's word is selected by its own row. -/
theorem encodeRow (i : Instr) : Laws.EncodeRow.Statement i := by
  open Laws.EncodeRow in
  cases i
  exacts [cls, ret, jpNnn _, callNnn _, seVxKk _ _, sneVxKk _ _, seVxVy _ _, ldVxKk _ _, addVxKk _ _,
    ldVxVy _ _, orVxVy _ _, andVxVy _ _, xorVxVy _ _, addVxVy _ _, subVxVy _ _, shrVx _ _, subnVxVy _ _,
    shlVx _ _, sneVxVy _ _, ldINnn _, jpV0Nnn _, rndVxKk _ _, drwVxVyN _ _ _, skpVx _, sknpVx _, ldVxDt _,
    ldVxKey _, ldDtVx _, ldStVx _, addIVx _, ldFVx _, ldBVx _, ldMemVx _, ldVxMem _]

/-- A word that decodes is selected by the row with the mnemonic of what it decodes to. -/
theorem exists_row_of_decodeWord {w : Word} {i : Instr} (hi : decodeWord w = .ok i) :
    ∃ r ∈ opcodeMap, r.mnemonic = i.mnemonic ∧ w &&& r.mask = r.pattern := by
  obtain ⟨r, hr, hm, hw⟩ := encodeRow i
  rw [encodeOfDecode w i hi, OpRow.selects, beq_iff_eq] at hw
  exact ⟨r, hr, hm, hw⟩

/-- Settles O3: a selected word decodes, since it is not listed; and the row of what a word decodes to is the
one row that selects the word and the one row with that mnemonic. -/
theorem opcodeMapSelectsInstruction : Obligations.OpcodeMapSelectsInstruction := by
  refine ⟨rfl, fun w r hr => ⟨fun h => ?_, fun ⟨i, hi, hm⟩ => ?_⟩, fun w r r' => opRow_eq_of_selects⟩
  · obtain ⟨i, hi⟩ := (decodingIsTotal w).2 (wordUnknown_of_selects hr h)
    obtain ⟨r', hr', hm, h'⟩ := exists_row_of_decodeWord hi
    cases opRow_eq_of_selects hr hr' h h'
    exact ⟨i, hi, hm.symm⟩
  · obtain ⟨r', hr', hm', h'⟩ := exists_row_of_decodeWord hi
    cases opcodeMap_mnemonic_inj hr hr' (hm.symm.trans hm'.symm)
    exact h'

end Sys2Proof

/-! ### The fault of an instruction and the fault of an unknown word (60_exceptions.md R151, R155) -/

namespace Sys2Proof.Machine

/-- The condition of R155 for an access at `I` is that of the bounds check (R45). -/
theorem accessFault_base (s : State) (count : Nat) : accessFault s.i.toNat count = rangeFault s.base count := by
  have hiff : 1 ≤ count ∧ Config.memSize ≤ s.i.toNat + count - 1 ↔
      ¬ (count = 0 ∨ s.i.toNat + count ≤ Config.memSize) := by
    unfold Config.memSize
    omega
  rcases Decidable.em (count = 0 ∨ s.i.toNat + count ≤ Config.memSize) with hin | hout
  · exact (if_neg fun h => hiff.1 h hin).trans (if_pos hin).symm
  · exact (if_pos (hiff.2 hout)).trans (if_neg hout).symm

/-- After an instruction the latch holds the fault that R155 gives for it, else what it held before. -/
theorem exec_fault {i : Instr} {s t : State} (h : exec i s = .next t) : t.fault = (faultIn s i).or s.fault := by
  cases i
  case ret =>
    rcases exec_ret_cases s with ⟨hpos, _, e⟩ | ⟨hzero, e⟩ <;> cases e.symm.trans h
    · simp [faultIn, Nat.ne_of_gt hpos]
    · simp [faultIn, hzero]
  case callNnn nnn =>
    rcases exec_call_cases nnn s with ⟨hlt, e⟩ | ⟨hfull, e⟩ <;> cases e.symm.trans h
    · simp [faultIn, Nat.ne_of_lt hlt]
    · simp [faultIn, hfull]
  case drwVxVyN x y n =>
    rcases exec_drw_cases x y n s with ⟨hr, e⟩ | ⟨f, hr, e⟩ <;> cases e.symm.trans h <;>
      simp [faultIn, accessFault_base, hr]
  case ldBVx x =>
    rcases exec_ldB_cases x s with ⟨hr, e⟩ | ⟨f, hr, e⟩ <;> cases e.symm.trans h <;>
      simp [faultIn, accessFault_base, hr]
  case ldMemVx x =>
    rcases exec_ldMem_cases x s with ⟨hr, e⟩ | ⟨f, hr, e⟩ <;> cases e.symm.trans h <;>
      simp [faultIn, accessFault_base, hr]
  case ldVxMem x =>
    rcases exec_ldVxMem_cases x s with ⟨hr, e⟩ | ⟨f, hr, e⟩ <;> cases e.symm.trans h
    · rw [State.setRegsFrom_eq]
      simp [faultIn, accessFault_base, hr]
    · simp [faultIn, accessFault_base, hr]
  case rndVxKk x kk =>
    rcases exec_rnd_cases x kk s with ⟨_, _, _, e⟩ | ⟨_, e⟩ <;> cases e.symm.trans h <;> simp [faultIn]
  case skpVx x =>
    rcases exec_skp_cases x s with ⟨_, e⟩ | ⟨_, e⟩ <;> cases e.symm.trans h <;> simp [faultIn]
  case sknpVx x =>
    rcases exec_sknp_cases x s with ⟨_, e⟩ | ⟨_, e⟩ <;> cases e.symm.trans h <;> simp [faultIn]
  case ldVxKey x =>
    rcases exec_ldKey_cases x s with ⟨_, e⟩ | ⟨_, _, _, e⟩ <;> cases e.symm.trans h <;> simp [faultIn]
  all_goals
    cases Host.Outcome.next.inj h
    simp [faultIn]

/-- `UnknownOpcode` is the step cycle's fault: no instruction that executes raises it (R151). -/
theorem faultIn_ne_unknownOpcode (s : State) (i : Instr) (w : Word) : faultIn s i ≠ some (.unknownOpcode w) := by
  cases i <;> simp [faultIn, accessFault]

theorem step_eq_coreStep {s : State} (ht : s.turn = .core) : step s = coreStep s.popTurn := by
  simp only [step, turnStep, ht]

theorem coreStep_of_wordUnknown {s : State} {w : Word} (hs : s.fault = none) (hw : s.fetch = .ok w)
    (hlisted : wordUnknown w = true) : coreStep s = .next (s.raise (.unknownOpcode w)) := by
  simp only [coreStep, hs, hw, (decodingIsTotal w).1 hlisted, complete_error]

/-- Of what a running core can do, only the step over an unknown word leaves `UnknownOpcode` latched. -/
theorem fetch_of_coreStep_unknownOpcode {s t : State} {w : Word} (hs : s.fault = none)
    (h : coreStep s = .next t) (hf : t.fault = some (.unknownOpcode w)) :
    s.fetch = .ok w ∧ wordUnknown w = true := by
  rcases coreStep_cases s with
    ⟨f, -, e⟩ | ⟨-, ⟨f, hw, e⟩ | ⟨w', err, hw, herr, e⟩ | ⟨w', i, -, -, e⟩⟩ <;> rw [e] at h
  · cases h
  · cases h
    cases hf
    rcases s.fetch_cases with ⟨-, e⟩ | ⟨-, e⟩ <;> cases e.symm.trans hw
  · cases h
    cases hf
    exact ⟨hw, wordUnknown_of_decodeWord_error herr⟩
  · rw [exec_fault h, hs, Option.or_none] at hf
    exact absurd hf (faultIn_ne_unknownOpcode s i w)

/-- Settles O9: on the core's turn by what the core can do; the other turns leave the latch as it was. -/
theorem unknownWordLatches : Obligations.UnknownWordLatches := by
  refine ⟨fun s w hs ht hw hlisted => ?_, fun s t w hs h hf => ?_⟩
  · exact ⟨_, (step_eq_coreStep ht).trans (coreStep_of_wordUnknown (s := s.popTurn) hs hw hlisted), rfl,
      ((onlyChanges_popTurn s).trans (onlyChanges_raise _ _)).mono (by simp)⟩
  · rcases step_cases s with ⟨-, e⟩ | ⟨-, e⟩ | ⟨down, -, e⟩
    · exact fetch_of_coreStep_unknownOpcode (s := s.popTurn) hs (e.symm.trans h) hf
    · cases e.symm.trans h
      cases hs.symm.trans hf
    · cases e.symm.trans h
      cases hs.symm.trans hf

end Sys2Proof.Machine

/-! ### A result with a flag, and the shifts (41_alu.md R101, R110, R112) -/

namespace Sys2Proof.Machine

theorem State.reg_setResultFlag_of_ne_vf (s : State) {x : Nibble} (hx : x ≠ 15) (b : Byte) (f : Bool) :
    (s.setResultFlag x b f).reg x = b :=
  (State.reg_setResultFlag s x x b f).trans ((if_neg hx).trans (if_pos rfl))

/-- The flag is written last, over the result where `x` is 15 (R17). -/
theorem State.reg_setResultFlag_vf (s : State) (x : Nibble) (b : Byte) (f : Bool) :
    (s.setResultFlag x b f).reg 15 = flagByte f :=
  (State.reg_setResultFlag s x 15 b f).trans (if_pos rfl)

theorem onlyRegs_setResultFlag_advance (s : State) (x : Nibble) (b : Byte) (f : Bool) :
    OnlyRegs [x, 15] s ((s.setResultFlag x b f).apply .advance) := by
  intro r hr
  obtain ⟨hx, h15⟩ : r ≠ x ∧ r ≠ 15 := by simpa using hr
  exact (State.reg_apply _ _ r).trans
    ((State.reg_setResultFlag s x r b f).trans ((if_neg h15).trans (if_neg hx)))

theorem onlyChanges_setResultFlag_advance (s : State) (x : Nibble) (b : Byte) (f : Bool) :
    OnlyChanges [.pc, .regs] s ((s.setResultFlag x b f).apply .advance) :=
  (onlyChanges_v s _).apply .advance

theorem flagByte_toNat (f : Bool) : (flagByte f).toNat = f.toNat := by cases f <;> rfl

/-- The old bit 0 is the remainder of the halving. -/
theorem shrFlag_toNat (v : Byte) : (shrFlag v).toNat = v.toNat % 2 := by
  rw [shrFlag, BitVec.getLsbD, Nat.toNat_testBit, pow_zero, Nat.div_one]

/-- The old bit 7 is the carry of the doubling. -/
theorem shlFlag_toNat (v : Byte) : (shlFlag v).toNat = v.toNat / 128 := by
  have := v.isLt
  rw [shlFlag, BitVec.getLsbD, Nat.toNat_testBit]
  omega

/-- Settles O33: both shifts write a result and a flag and advance; the flag is the old bit as a number. -/
theorem shiftsSetBitShiftedOut : Obligations.ShiftsSetBitShiftedOut := by
  intro x y s
  refine ⟨⟨_, rfl, fun hx => ?_, ?_, rfl, onlyRegs_setResultFlag_advance s x _ _,
      onlyChanges_setResultFlag_advance s x _ _⟩,
    _, rfl, fun hx => ?_, ?_, rfl, onlyRegs_setResultFlag_advance s x _ _,
      onlyChanges_setResultFlag_advance s x _ _⟩
  · rw [State.reg_apply, State.reg_setResultFlag_of_ne_vf s hx, BitVec.toNat_ushiftRight, Nat.shiftRight_one]
  · rw [State.reg_apply, State.reg_setResultFlag_vf, flagByte_toNat, shrFlag_toNat]
  · rw [State.reg_apply, State.reg_setResultFlag_of_ne_vf s hx, BitVec.toNat_shiftLeft, Nat.shiftLeft_eq,
      pow_one]
  · rw [State.reg_apply, State.reg_setResultFlag_vf, flagByte_toNat, shlFlag_toNat]

end Sys2Proof.Machine

/-! ### The step cycle: the fetch, the instruction at `PC`, held and idle cores (40_control_flow.md R80 to R88) -/

namespace Sys2Proof.Machine

theorem State.fetch_of_out_of_range {s : State} (h : Config.memSize < s.pc.toNat + 2) :
    s.fetch = .error (.outOfRangeMemoryAccess (max s.pc.toNat Config.memSize)) :=
  (s.fetch_cases.resolve_left fun hin => Nat.not_le.2 h hin.1).2

theorem coreStep_of_fetch_error {s : State} {f : Fault} (hs : s.fault = none) (hf : s.fetch = .error f) :
    coreStep s = .next (s.raise f) := by
  simp only [coreStep, hs, hf, complete_error]

/-- Settles O8: the fetch comes before the decoder (R159), so the bytes of memory play no part. -/
theorem fetchOutOfRangeLatches : Obligations.FetchOutOfRangeLatches := by
  intro s hs ht hpc
  have hfetch : s.popTurn.fetch = .error (.outOfRangeMemoryAccess (max s.pc.toNat Config.memSize)) :=
    State.fetch_of_out_of_range (Nat.lt_succ_of_le hpc)
  exact ⟨_, (step_eq_coreStep ht).trans (coreStep_of_fetch_error hs hfetch), rfl,
    ((onlyChanges_popTurn s).trans (onlyChanges_raise _ _)).mono (by simp)⟩

theorem State.instrAtPc_eq_some_iff (s : State) (i : Instr) :
    s.instrAtPc = some i ↔ ∃ w, s.fetch = .ok w ∧ decodeWord w = .ok i := by
  unfold State.instrAtPc
  cases s.fetch with
  | error f => simp
  | ok w => cases hd : decodeWord w <;> simp [hd, Except.toOption]

/-- The core's turn with no fault latched executes the instruction at `PC` (R80). -/
theorem step_of_instrAtPc {s : State} {i : Instr} (hs : s.fault = none) (ht : s.turn = .core)
    (hi : s.instrAtPc = some i) : step s = exec i s.popTurn := by
  obtain ⟨w, hw, hd⟩ := (s.instrAtPc_eq_some_iff i).1 hi
  simp only [step_eq_coreStep ht, coreStep, State.popTurn_fault, hs, State.fetch_popTurn, hw, hd]

/-- Two bytes decode as their big-endian word does, with no byte left over. -/
theorem decode_two_bytes_eq_ok_iff (b0 b1 : Byte) (i : Instr) :
    decode [b0, b1] = .ok (i, []) ↔ decodeWord (b0 ++ b1) = .ok i := by
  have hword : assembleWord b0 b1 = b0 ++ b1 := rfl
  rw [decode, hword]
  cases decodeWord (b0 ++ b1) <;> simp

/-- Settles O6: the two bytes are in range, so the fetch answers their word and the decoder its instruction. -/
theorem stepRunsDecodedInstruction : Obligations.StepRunsDecodedInstruction := by
  intro s i hs ht hpc hd
  have hfetch := (s.fetch_cases.resolve_right fun h => Nat.not_le.2 h.1 hpc).2
  exact step_of_instrAtPc hs ht
    ((s.instrAtPc_eq_some_iff i).2 ⟨_, hfetch, (decode_two_bytes_eq_ok_iff _ _ i).1 hd⟩)

theorem State.keysDown_eq_nil_iff (s : State) : s.keysDown = [] ↔ s.noKeyDown := by
  simp only [List.eq_nil_iff_forall_not_mem, s.mem_keysDown_iff, State.noKeyDown]
  constructor
  · intro h k
    exact Bool.eq_false_iff.2 fun hk => h _ ⟨k, hk, rfl⟩
  · rintro h b ⟨k, hk, -⟩
    exact Bool.false_ne_true ((h k).symm.trans hk)

/-- With no key down the key wait holds (R144). -/
theorem exec_ldKey_of_noKeyDown {s : State} (x : Nibble) (h : s.noKeyDown) : exec (.ldVxKey x) s = .next s := by
  rcases exec_ldKey_cases x s with ⟨-, e⟩ | ⟨k, _, hk, -⟩
  · exact e
  · rw [s.keysDown_eq_nil_iff.2 h] at hk
    exact absurd hk List.not_mem_nil

/-- Settles O16: the instruction at `PC` is the key wait, which answers the state it started from. -/
theorem heldCoreWaits : Obligations.HeldCoreWaits := by
  rintro s ⟨hs, ⟨x, hi⟩, hkeys⟩ ht
  exact ⟨_, (step_of_instrAtPc hs ht hi).trans (exec_ldKey_of_noKeyDown (s := s.popTurn) x hkeys),
    onlyChanges_popTurn s⟩

theorem State.apply_jump_pc_self (s : State) : s.apply (.jump s.pc) = s := rfl

/-- A jump to the instruction's own address answers the state it started from (R187). -/
theorem exec_jp_self {s : State} {nnn : Addr12} (h : zextAddr nnn = s.pc) : exec (.jpNnn nnn) s = .next s := by
  show Host.Outcome.next (s.apply (.jump (zextAddr nnn))) = _
  rw [h, State.apply_jump_pc_self]

/-- The schedule plays no part in being idle. -/
theorem State.idle_popTurn {s : State} (h : s.idle) : s.popTurn.idle := h

/-- Settles O17: the jump to itself leaves the state with the core's turn taken off, which is idle too. -/
theorem idleStepReproducesState : Obligations.IdleStepReproducesState := by
  intro s hidle ht
  obtain ⟨hs, nnn, hi, hself⟩ := hidle
  exact ⟨_, (step_of_instrAtPc hs ht hi).trans (exec_jp_self (s := s.popTurn) hself), onlyChanges_popTurn s,
    State.idle_popTurn ⟨hs, nnn, hi, hself⟩⟩

end Sys2Proof.Machine

/-! ### Jumps, skips and directive classes (40_control_flow.md R86 to R94) -/

namespace Sys2Proof.Machine

theorem zextAddr_toNat (nnn : Addr12) : (zextAddr nnn).toNat = nnn.toNat :=
  BitVec.toNat_setWidth_of_le (by decide)

theorem zextByte_toNat (b : Byte) : (zextByte b).toNat = b.toNat :=
  BitVec.toNat_setWidth_of_le (by decide)

/-- Settles O19: the target is the address field, zero-extended. -/
theorem jpJumpsToTarget : Obligations.JpJumpsToTarget :=
  fun nnn s => ⟨_, rfl, zextAddr_toNat nnn, onlyChanges_apply s _⟩

/-- A 12-bit address and a byte add up below 2^16. -/
theorem State.offsetTarget_toNat (s : State) (nnn : Addr12) :
    (s.offsetTarget nnn).toNat = nnn.toNat + (s.reg 0).toNat := by
  have hnnn := nnn.isLt
  have hreg := (s.reg 0).isLt
  rw [State.offsetTarget, BitVec.toNat_add, zextAddr_toNat, zextByte_toNat]
  exact Nat.mod_eq_of_lt (by omega)

/-- Settles O26: the target is the sum, which 16 bits hold. -/
theorem offsetJumpAddsV0 : Obligations.OffsetJumpAddsV0 :=
  fun nnn s => ⟨_, rfl, s.offsetTarget_toNat nnn, onlyChanges_apply s _⟩

theorem State.apply_skipIf_beq_pc (s : State) (a b : Byte) :
    (s.apply (skipIf (a == b))).pc = if a = b then s.pc + 4 else s.pc + 2 := by
  simp only [State.apply_skipIf_pc, beq_iff_eq]

theorem State.apply_skipIf_bne_pc (s : State) (a b : Byte) :
    (s.apply (skipIf (a != b))).pc = if a ≠ b then s.pc + 4 else s.pc + 2 := by
  simp only [State.apply_skipIf_pc, bne_iff_ne]

/-- Settles O24: both are a skip on a comparison of bytes. -/
theorem skipsOnImmediate : Obligations.SkipsOnImmediate :=
  fun x kk s =>
    ⟨⟨_, rfl, s.apply_skipIf_beq_pc (s.reg x) kk, onlyChanges_apply s _⟩,
      _, rfl, s.apply_skipIf_bne_pc (s.reg x) kk, onlyChanges_apply s _⟩

/-- Settles O25: both are a skip on a comparison of bytes. -/
theorem skipsOnRegister : Obligations.SkipsOnRegister :=
  fun x y s =>
    ⟨⟨_, rfl, s.apply_skipIf_beq_pc (s.reg x) (s.reg y), onlyChanges_apply s _⟩,
      _, rfl, s.apply_skipIf_bne_pc (s.reg x) (s.reg y), onlyChanges_apply s _⟩

theorem State.apply_skipIf_pc_eq_or (s : State) (c : Bool) :
    (s.apply (skipIf c)).pc = s.pc + 2 ∨ (s.apply (skipIf c)).pc = s.pc + 4 := by
  cases c
  · exact .inl rfl
  · exact .inr rfl

/-- The six conditional skips leave `PC + 2` or `PC + 4` (R86). -/
theorem exec_pc_of_skips {i : Instr} {s t : State} (hi : directiveClass i = .skips) (h : exec i s = .next t) :
    t.pc = s.pc + 2 ∨ t.pc = s.pc + 4 := by
  cases i
  case seVxKk | sneVxKk | seVxVy | sneVxVy =>
    cases h
    exact s.apply_skipIf_pc_eq_or _
  case skpVx x =>
    rcases exec_skp_cases x s with ⟨_, e⟩ | ⟨_, e⟩ <;> cases e.symm.trans h
    · exact s.apply_skipIf_pc_eq_or _
    · exact State.apply_skipIf_pc_eq_or _ _
  case sknpVx x =>
    rcases exec_sknp_cases x s with ⟨_, e⟩ | ⟨_, e⟩ <;> cases e.symm.trans h
    · exact s.apply_skipIf_pc_eq_or _
    · exact State.apply_skipIf_pc_eq_or _ _
  all_goals cases hi

/-- An instruction that checks its addresses advances from a state with the old `PC`, or raises a fault. -/
theorem raised_or_pc_of_checked {s t u : State} {inRange : Prop} {bad : Fault → Prop}
    {o : Host.Outcome State Fault Refusal}
    (ho : (inRange ∧ o = .next (u.apply .advance)) ∨ ∃ f, bad f ∧ o = .next (s.raise f)) (h : o = .next t)
    (hu : u.pc = s.pc) :
    (∃ f, t = s.raise f) ∨ t.pc = s.pc + 2 := by
  rcases ho with ⟨-, e⟩ | ⟨f, -, e⟩ <;> cases e.symm.trans h
  · exact .inr (by rw [State.apply_advance_pc, hu])
  · exact .inl ⟨f, rfl⟩

/-- An advancing instruction raises a fault, leaves `PC + 2`, or holds in the key wait (R84, R86). -/
theorem exec_pc_of_advances {i : Instr} {s t : State} (hi : directiveClass i = .advances)
    (h : exec i s = .next t) :
    (∃ f, t = s.raise f) ∨ t.pc = s.pc + 2 ∨ (∃ x, i = .ldVxKey x) ∧ s.noKeyDown ∧ t = s := by
  cases i
  case drwVxVyN x y n => exact (raised_or_pc_of_checked (exec_drw_cases x y n s) h rfl).imp_right .inl
  case ldBVx x => exact (raised_or_pc_of_checked (exec_ldB_cases x s) h rfl).imp_right .inl
  case ldMemVx x => exact (raised_or_pc_of_checked (exec_ldMem_cases x s) h rfl).imp_right .inl
  case ldVxMem x =>
    exact (raised_or_pc_of_checked (exec_ldVxMem_cases x s) h (by rw [State.setRegsFrom_eq])).imp_right .inl
  case rndVxKk x kk =>
    rcases exec_rnd_cases x kk s with ⟨_, _, _, e⟩ | ⟨_, e⟩ <;> cases e.symm.trans h
    · exact .inr (.inl rfl)
    · exact .inr (.inl rfl)
  case ldVxKey x =>
    rcases exec_ldKey_cases x s with ⟨hkeys, e⟩ | ⟨_, _, _, e⟩ <;> cases e.symm.trans h
    · exact .inr (.inr ⟨⟨x, rfl⟩, s.keysDown_eq_nil_iff.1 hkeys, rfl⟩)
    · exact .inr (.inl rfl)
  case ret | jpNnn | callNnn | jpV0Nnn | seVxKk | sneVxKk | seVxVy | sneVxVy | skpVx | sknpVx => cases hi
  all_goals
    cases h
    exact .inr (.inl rfl)

/-- Settles O14: the clear latch excludes a raise, and the rest is what each class does to `PC`. -/
theorem directiveClassMovesPc : Obligations.DirectiveClassMovesPc := by
  intro i s t _ h ht
  refine ⟨fun hi => exec_pc_of_skips hi h, fun hi => (exec_pc_of_advances hi h).resolve_left ?_⟩
  rintro ⟨f, rfl⟩
  cases ht

end Sys2Proof.Machine

/-! ### The call stack (40_control_flow.md R87, R89, R97) -/

namespace Sys2Proof.Machine

theorem exec_ret_of_sp_eq_zero {s : State} (h : s.sp.val = 0) :
    exec .ret s = .next (s.raise .stackUnderflow) :=
  ((exec_ret_cases s).resolve_left fun ⟨hpos, _⟩ => Nat.ne_of_gt hpos h).2

theorem exec_call_of_sp_lt {s : State} (nnn : Addr12) (h : s.sp.val < Config.stackDepth) :
    exec (.callNnn nnn) s =
      .next (({ s with stk := s.stk.set s.sp.val (s.pc + 2) h,
                       sp := ⟨s.sp.val + 1, Nat.succ_lt_succ h⟩ } : State).apply (.jump (zextAddr nnn))) :=
  ((exec_call_cases nnn s).resolve_right fun hfull => Nat.ne_of_lt h hfull.1).2

theorem exec_call_of_full {s : State} (nnn : Addr12) (h : s.sp.val = Config.stackDepth) :
    exec (.callNnn nnn) s = .next (s.raise .stackOverflow) :=
  ((exec_call_cases nnn s).resolve_left fun ⟨hlt, _⟩ => Nat.ne_of_lt hlt h).2

/-- Settles O18: the two cases of the pop. -/
theorem retPopsReturnAddress : Obligations.RetPopsReturnAddress := by
  intro s
  refine ⟨fun hpos => ?_, fun hzero => ⟨_, exec_ret_of_sp_eq_zero hzero, rfl, onlyChanges_raise s _⟩⟩
  obtain ⟨n, hsp⟩ := Nat.exists_eq_add_one.2 hpos
  have hn : n < Config.stackDepth := Nat.lt_of_succ_lt_succ (hsp.symm.trans_lt s.sp.isLt)
  exact ⟨_, exec_ret_of_sp_eq_succ hsp hn, by simp [hsp], by simp [hsp], (onlyChanges_sp s _).apply _⟩

/-- Settles O20: the two cases of the push. -/
theorem callPushesNextAddress : Obligations.CallPushesNextAddress := by
  intro nnn s
  refine ⟨fun hsp => ?_, fun hfull => ⟨_, exec_call_of_full nnn hfull, rfl, onlyChanges_raise s _⟩⟩
  refine ⟨_, exec_call_of_sp_lt nnn hsp, zextAddr_toNat nnn, rfl, ⟨s.pc + 2, by simp, BitVec.toNat_add _ _⟩,
    fun k hk => by simp [hk.symm], ((Update.push nnn _ _).onlyChanges.apply (.jump _)).mono ?_⟩
  simp [partsWritten]

/-- Calls for which the stack has room all succeed, and each counts one entry (R89). -/
theorem callEach_of_room (targets : List Addr12) (s : State)
    (hroom : s.sp.val + targets.length ≤ Config.stackDepth) :
    ∃ t, callEach targets s = .next t ∧ t.sp.val = s.sp.val + targets.length ∧ t.fault = s.fault := by
  induction targets generalizing s with
  | nil => exact ⟨s, rfl, rfl, rfl⟩
  | cons nnn rest ih =>
    rw [List.length_cons] at hroom
    obtain ⟨u, hcall, hsp, hfault⟩ : ∃ u, exec (.callNnn nnn) s = .next u ∧ u.sp.val = s.sp.val + 1 ∧
        u.fault = s.fault := ⟨_, exec_call_of_sp_lt nnn (by omega), rfl, rfl⟩
    obtain ⟨t, hrest, htsp, htfault⟩ := ih u (by omega)
    refine ⟨t, ?_, ?_, htfault.trans hfault⟩
    · rw [callEach, hcall]
      exact hrest
    · rw [htsp, hsp, List.length_cons]
      omega

/-- Settles O22: the empty stack has room for 16 entries, and after 16 calls it is full. -/
theorem sixteenNestedCalls : Obligations.SixteenNestedCalls := by
  intro targets s hs hsp hlen
  obtain ⟨t, hcalls, htsp, hfault⟩ := callEach_of_room targets s (by rw [hsp, Nat.zero_add]; exact hlen)
  rw [hsp, Nat.zero_add] at htsp
  exact ⟨t, hcalls, htsp, hfault.trans hs, fun hfull nnn =>
    ⟨_, exec_call_of_full nnn (htsp.trans hfull), rfl⟩⟩

end Sys2Proof.Machine

/-! ### A result with no flag, and the arithmetic of the ALU (41_alu.md R102 to R109, R111) -/

namespace Sys2Proof.Machine

/-- An instruction that writes one register and advances: what holds of the result holds of `V[x]`, and all else
is kept. -/
theorem complete_setReg_advance (s : State) (x : Nibble) {b : Byte} (P : Byte → Prop) (hb : P b) :
    ∃ t, complete s (.ok (s.setReg x b, .advance)) = .next t ∧ P (t.reg x) ∧ t.pc = s.pc + 2 ∧
      OnlyRegs [x] s t ∧ OnlyChanges [.pc, .regs] s t := by
  refine ⟨_, rfl, ?_, rfl, onlyRegs_setReg_advance rfl x b, (onlyChanges_v s _).apply .advance⟩
  rwa [State.reg_apply, State.reg_setReg_self]

/-- An instruction that writes a result and a flag and advances: `V[15]` is the flag as a number, and what holds
of the result holds of `V[x]` unless the flag overwrote it (R17). -/
theorem complete_setResultFlag_advance (s : State) (x : Nibble) {b : Byte} {f : Bool} {n : Nat}
    (P : Byte → Prop) (hb : P b) (hf : f.toNat = n) :
    ∃ t, complete s (.ok (s.setResultFlag x b f, .advance)) = .next t ∧ (x ≠ 15 → P (t.reg x)) ∧
      (t.reg 15).toNat = n ∧ t.pc = s.pc + 2 ∧ OnlyRegs [x, 15] s t ∧ OnlyChanges [.pc, .regs] s t := by
  refine ⟨_, rfl, fun hx => ?_, ?_, rfl, onlyRegs_setResultFlag_advance s x b f,
    onlyChanges_setResultFlag_advance s x b f⟩
  · rwa [State.reg_apply, State.reg_setResultFlag_of_ne_vf s hx]
  · rw [State.reg_apply, State.reg_setResultFlag_vf, flagByte_toNat, hf]

theorem addFlag_toNat (a b : Byte) : (addFlag a b).toNat = if 255 < a.toNat + b.toNat then 1 else 0 :=
  Bool.cond_decide _ 1 0

theorem subFlag_toNat (a b : Byte) : (subFlag a b).toNat = if a.toNat > b.toNat then 1 else 0 :=
  Bool.cond_decide _ 1 0

/-- The difference of two bytes is the integer difference modulo 256. -/
theorem byte_sub_toNat (a b : Byte) : ((a - b).toNat : Int) = (a.toNat - b.toNat : Int) % 256 := by
  have ha := a.isLt
  have hb := b.isLt
  rw [BitVec.toNat_sub]
  omega

/-- Settles O27: both loads write one register. -/
theorem loadsWriteRegister : Obligations.LoadsWriteRegister :=
  fun x y kk s =>
    ⟨complete_setReg_advance s x (· = kk) rfl, complete_setReg_advance s x (· = s.reg y) rfl⟩

/-- Settles O28: the sum of two bytes is the sum modulo 256. -/
theorem addImmediateWraps : Obligations.AddImmediateWraps :=
  fun x kk s =>
    complete_setReg_advance s x (fun v => v.toNat = ((s.reg x).toNat + kk.toNat) % 256) (BitVec.toNat_add _ _)

/-- Settles O29: each operation on bytes acts on every bit. -/
theorem logicIsBitwise : Obligations.LogicIsBitwise :=
  fun x y s =>
    ⟨complete_setReg_advance s x (fun v => ∀ b, v.getLsbD b = ((s.reg x).getLsbD b || (s.reg y).getLsbD b))
        fun _ => BitVec.getLsbD_or,
      complete_setReg_advance s x (fun v => ∀ b, v.getLsbD b = ((s.reg x).getLsbD b && (s.reg y).getLsbD b))
        fun _ => BitVec.getLsbD_and,
      complete_setReg_advance s x (fun v => ∀ b, v.getLsbD b = ((s.reg x).getLsbD b ^^ (s.reg y).getLsbD b))
        fun _ => BitVec.getLsbD_xor⟩

/-- Settles O30: the sum modulo 256, and the carry. -/
theorem addSetsCarry : Obligations.AddSetsCarry :=
  fun x y s =>
    complete_setResultFlag_advance s x (fun v => v.toNat = ((s.reg x).toNat + (s.reg y).toNat) % 256)
      (BitVec.toNat_add _ _) (addFlag_toNat _ _)

/-- Settles O31: the minuend is `V[x]`. -/
theorem subSetsInverseBorrow : Obligations.SubSetsInverseBorrow :=
  fun x y s =>
    complete_setResultFlag_advance s x
      (fun v => (v.toNat : Int) = ((s.reg x).toNat - (s.reg y).toNat : Int) % 256)
      (byte_sub_toNat _ _) (subFlag_toNat _ _)

/-- Settles O32: the minuend is `V[y]`, the destination still `V[x]`. -/
theorem subnSetsInverseBorrow : Obligations.SubnSetsInverseBorrow :=
  fun x y s =>
    complete_setResultFlag_advance s x
      (fun v => (v.toNat : Int) = ((s.reg y).toNat - (s.reg x).toNat : Int) % 256)
      (byte_sub_toNat _ _) (subFlag_toNat _ _)

end Sys2Proof.Machine

/-! ### The display: cleared, drawn upon twice, and drawn upon with no rows (42_display.md R121, R126, R127) -/

namespace Sys2Proof.Machine

@[simp] theorem FrameBuffer.pixel_clear (r c : Nat) : FrameBuffer.clear.pixel r c = false := by
  simp [FrameBuffer.pixel, FrameBuffer.clear]

/-- A display is its pixels. -/
theorem FrameBuffer.ext_pixel {fb fb' : FrameBuffer}
    (h : ∀ r c, r < 32 → c < 64 → fb.pixel r c = fb'.pixel r c) : fb = fb' := by
  refine Vector.ext fun r hr => Vector.ext fun c hc => ?_
  have hpixel := h r c hr hc
  simp only [FrameBuffer.pixel, Nat.mod_eq_of_lt hr, Nat.mod_eq_of_lt hc] at hpixel
  exact hpixel

/-- The same `I`, coordinates and sprite bytes give the same sprite at the same place. -/
theorem State.spriteSets_congr {s s' : State} {x y n : Nibble} (hi : s'.i = s.i) (hx : s'.reg x = s.reg x)
    (hy : s'.reg y = s.reg y)
    (hbytes : ∀ k, k < n.toNat → s'.byteAt (s.i.toNat + k) = s.byteAt (s.i.toNat + k)) (r c : Nat) :
    s'.spriteSets x y n r c ↔ s.spriteSets x y n r c := by
  unfold State.spriteSets
  rw [hi, hx, hy]
  refine exists_congr fun k => exists_congr fun j => and_congr_right fun hk => ?_
  rw [hbytes k hk]

/-- Settles O34: every pixel of the cleared display is 0, and nothing but the display and `PC` is written. -/
theorem clsClearsEveryPixel : Obligations.ClsClearsEveryPixel :=
  fun s => ⟨_, rfl, FrameBuffer.pixel_clear, rfl, (onlyChanges_fb s _).apply .advance⟩

/-- Settles O36: both draws follow the pixel law of the same sprite, and a pixel flipped twice is itself. -/
theorem drwTwiceRestoresDisplay : Obligations.DrwTwiceRestoresDisplay := by
  intro x y n s t t' u hin ht hfb hi hx hy hbytes hu
  obtain ⟨_, e, hfirst, -⟩ := (drwXorsSprite x y n s).1 hin
  cases ht.symm.trans e
  obtain ⟨_, e', hsecond, hhit, hmiss, -⟩ := (drwXorsSprite x y n t').1 (by rwa [hi])
  cases hu.symm.trans e'
  simp only [State.spriteSets_congr hi hx hy hbytes, hfb] at hsecond hhit hmiss
  constructor
  · refine FrameBuffer.ext_pixel fun r c hr hc => ?_
    by_cases hset : s.spriteSets x y n r c
    · rw [(hsecond r c hr hc).1 hset, (hfirst r c hr hc).1 hset, Bool.not_not]
    · rw [(hsecond r c hr hc).2 hset, (hfirst r c hr hc).2 hset]
  · refine ⟨fun h1 => by_contra fun hno => ?_, hhit⟩
    exact absurd (h1.symm.trans (hmiss hno)) (by decide)

/-- Settles O37: the bounds check of no bytes passes, and the blit of no rows is the display without a collision. -/
theorem drwOfNoRows : Obligations.DrwOfNoRows := by
  intro x y s
  have hblit : s.blit x y 0 = ⟨s.fb, false⟩ := rfl
  rcases exec_drw_cases x y 0 s with ⟨-, e⟩ | ⟨f, hf, -⟩
  · rw [hblit] at e
    refine ⟨_, e, ?_, rfl, onlyRegs_setReg_advance rfl 15 _, (onlyChanges_v s _).apply .advance⟩
    rw [State.reg_apply, State.reg_setFlag]
    rfl
  · cases hf

end Sys2Proof.Machine

/-! ### The address register and the memory instructions (43_address_memory.md R130 to R136) -/

namespace Sys2Proof.Machine

/-- Settles O38: the address field, zero-extended. -/
theorem ldILoadsAddress : Obligations.LdILoadsAddress :=
  fun nnn s => ⟨_, rfl, zextAddr_toNat nnn, rfl, (onlyChanges_i s _).apply .advance⟩

theorem toNat_add_zextByte (w : Word) (b : Byte) : (w + zextByte b).toNat = (w.toNat + b.toNat) % 65536 := by
  rw [BitVec.toNat_add, zextByte_toNat]

/-- Settles O39: the sum of `I` and the zero-extended byte, in 16 bits. -/
theorem addIWrapsWithoutFlag : Obligations.AddIWrapsWithoutFlag :=
  fun x s => ⟨_, rfl, toNat_add_zextByte s.i (s.reg x), rfl, (onlyChanges_i s _).apply .advance⟩

theorem fontAddr_toNat_of_le {v : Byte} (h : v.toNat ≤ 15) :
    (fontAddr v).toNat = Config.fontBase.val + 5 * v.toNat := by
  simpa using fontAddr_toNat_of_digit (Nat.lt_succ_of_le h)

theorem fontAddr_of_high {v : Byte} (h : 16 ≤ v.toNat) : fontAddr v = Config.fontAddrHigh v :=
  if_neg (Nat.not_le.2 h)

/-- Settles O40: the two branches of the font address. -/
theorem fontAddressOfDigit : Obligations.FontAddressOfDigit :=
  fun _ s => ⟨_, rfl, fontAddr_toNat_of_le, fontAddr_of_high, rfl, (onlyChanges_i s _).apply .advance⟩

/-- An instruction that checks the `last + 1` addresses from `I` on answers `u` where the last one is in range,
else it latches the fault of the lowest one out of range and changes nothing else (R45, R46). -/
theorem access_in_range_or_fault {s u : State} {last : Nat} {o : Host.Outcome State Fault Refusal} {P : State → Prop}
    (ho : (rangeFault s.base (last + 1) = none ∧ o = .next u) ∨
      ∃ f, rangeFault s.base (last + 1) = some f ∧ o = .next (s.raise f))
    (hu : P u) :
    (s.i.toNat + last < 4096 → ∃ t, o = .next t ∧ P t) ∧
    (4096 ≤ s.i.toNat + last → ∃ t, o = .next t ∧
      t.fault = some (.outOfRangeMemoryAccess (max s.i.toNat 4096)) ∧ OnlyChanges [.fault] s t) := by
  rcases ho with ⟨hr, e⟩ | ⟨f, hr, e⟩
  · have hin := ((rangeFault_eq_none_iff _ _).1 hr).resolve_left (Nat.succ_ne_zero last)
    exact ⟨fun _ => ⟨u, e, hu⟩, fun hout => absurd hin (Nat.not_le.2 (Nat.lt_succ_of_le hout))⟩
  · obtain ⟨⟨-, hout⟩, rfl⟩ := (rangeFault_eq_some_iff _ _ _).1 hr
    exact ⟨fun hin => absurd hout (Nat.not_lt.2 hin), fun _ => ⟨_, e, rfl, onlyChanges_raise s _⟩⟩

/-- The state after an instruction has stored `bs` from `base` on and advanced. -/
def State.storeAdvance (s : State) (base : Nat) (bs : List Byte) : State :=
  ({ s with mem := s.mem.writeRun base bs } : State).apply .advance

theorem State.byteAt_storeAdvance {s : State} (hs : s.Inv) (base : Nat) {bs : List Byte} {k : Nat}
    (hk : k < bs.length) : (s.storeAdvance base bs).byteAt (base + k) = bs[k] :=
  Memory.read_writeRun_of_lt hs base bs hk

theorem State.byteAt_storeAdvance_triple {s : State} (hs : s.Inv) (base : Nat) (a b c : Byte) :
    (s.storeAdvance base [a, b, c]).byteAt base = a ∧ (s.storeAdvance base [a, b, c]).byteAt (base + 1) = b ∧
      (s.storeAdvance base [a, b, c]).byteAt (base + 2) = c :=
  have hbyte {k : Nat} (hk : k < 3) := State.byteAt_storeAdvance hs base (bs := [a, b, c]) hk
  ⟨hbyte (k := 0) (by decide), hbyte (k := 1) (by decide), hbyte (k := 2) (by decide)⟩

theorem onlyBytes_storeAdvance (s : State) (base : Nat) (bs : List Byte) :
    OnlyBytes base bs.length s (s.storeAdvance base bs) :=
  fun _ ha => Memory.read_writeRun_of_outside s.mem bs ha

theorem onlyChanges_storeAdvance (s : State) (base : Nat) (bs : List Byte) :
    OnlyChanges [.pc, .mem] s (s.storeAdvance base bs) :=
  (onlyChanges_mem s _).apply .advance

/-- The three digits of a byte make up its value, and tens and ones are below 10 (R134). -/
theorem decimalDigits_spec (v : Byte) :
    ∃ hundreds tens ones : Byte, decimalDigits v = [hundreds, tens, ones] ∧
      100 * hundreds.toNat + 10 * tens.toNat + ones.toNat = v.toNat ∧ tens.toNat < 10 ∧ ones.toNat < 10 := by
  have hv := v.isLt
  refine ⟨_, _, _, rfl, ?_⟩
  simp only [BitVec.toNat_ofNat]
  omega

/-- Settles O42: the three bytes stored are the digits. -/
theorem decimalStore : Obligations.DecimalStore := by
  intro x s hs
  obtain ⟨hundreds, tens, ones, hdigits, hsum, htens, hones⟩ := decimalDigits_spec (s.reg x)
  have hexec := exec_ldB_cases x s
  rw [hdigits] at hexec
  obtain ⟨hhundredsAt, htensAt, honesAt⟩ :=
    State.byteAt_storeAdvance_triple hs s.i.toNat hundreds tens ones
  refine access_in_range_or_fault (u := s.storeAdvance s.i.toNat [hundreds, tens, ones]) hexec
    ⟨?_, ?_, ?_, onlyBytes_storeAdvance s _ [hundreds, tens, ones], rfl, onlyChanges_storeAdvance s _ _⟩
  · rwa [hhundredsAt, htensAt, honesAt]
  · rwa [htensAt]
  · rwa [honesAt]

/-- Settles O43: the bytes stored are the registers up to `V[x]`, each at its own offset. -/
theorem blockStore : Obligations.BlockStore := by
  intro x s hs
  refine access_in_range_or_fault (exec_ldMem_cases x s) ⟨fun r hr => ?_, ?_, rfl, onlyChanges_storeAdvance s _ _⟩
  · have hbyte := State.read_writeRun_regsUpTo hs hr
    rwa [BitVec.ofNat_toNat, BitVec.setWidth_eq] at hbyte
  · rw [← s.length_regsUpTo x]
    exact onlyBytes_storeAdvance s _ _

/-- A block of bytes loaded into the registers from `V[0]` on (R136). -/
theorem State.reg_setRegsFrom_range (s : State) {n : Nat} (hn : n < 16) (f : Nat → Byte) (r : Nibble) :
    (s.setRegsFrom 0 ((List.range (n + 1)).map f)).reg r = if r.toNat ≤ n then f r.toNat else s.reg r := by
  rw [State.reg_setRegsFrom s 0 _ (by simpa using hn), if_pos (Nat.zero_le _), Nat.sub_zero]
  by_cases hr : r.toNat ≤ n
  · simp [hr, Nat.lt_succ_of_le hr]
  · rw [if_neg hr, List.getD_eq_default _ _ (by simpa using Nat.not_le.1 hr)]

theorem onlyChanges_setRegsFrom (s : State) (k : Nat) (bs : List Byte) :
    OnlyChanges [.regs] s (s.setRegsFrom k bs) := by
  rw [State.setRegsFrom_eq]
  exact onlyChanges_v s _

/-- Settles O44: the registers up to `V[x]` hold the bytes read, and the run of writes reaches no other. -/
theorem blockLoad : Obligations.BlockLoad := by
  intro x s
  have hreg (r : Nibble) := s.reg_setRegsFrom_range x.isLt (fun k => s.byteAt (s.base + k)) r
  exact access_in_range_or_fault (exec_ldVxMem_cases x s)
    ⟨fun r hr => (hreg r).trans (if_pos hr), fun r hr => (hreg r).trans (if_neg (Nat.not_le.2 hr)),
      by rw [State.apply_advance_pc, State.setRegsFrom_eq], (onlyChanges_setRegsFrom s 0 _).apply .advance⟩

end Sys2Proof.Machine

/-! ### The key wait and the timers (44_timer_key_random.md R143 to R146) -/

namespace Sys2Proof.Machine

/-- A key that is down is listed under its number. -/
theorem State.exists_key_of_mem_keysDown {s : State} {b : Byte} (h : b ∈ s.keysDown) :
    ∃ k : Fin 16, s.keys[k] = true ∧ b.toNat = k.val := by
  obtain ⟨k, hdown, rfl⟩ := (s.mem_keysDown_iff b).1 h
  exact ⟨k, hdown, (BitVec.toNat_ofNat _ _).trans (Nat.mod_eq_of_lt (k.isLt.trans (by decide)))⟩

/-- Settles O48: the wait holds exactly when no key is listed as down, else it reports one that is listed. -/
theorem keyWaitHoldsThenReports : Obligations.KeyWaitHoldsThenReports := by
  intro x s
  refine ⟨exec_ldKey_of_noKeyDown x, fun hdown => ?_⟩
  rcases exec_ldKey_cases x s with ⟨hnil, -⟩ | ⟨b, n, hb, e⟩
  · exact absurd (s.keysDown_eq_nil_iff.1 hnil) hdown
  · refine ⟨_, e, ?_, rfl, onlyRegs_setReg_advance rfl x b,
      (((onlyChanges_draws s n).trans (onlyChanges_v _ _)).apply .advance).mono (by simp)⟩
    rw [State.reg_apply, State.reg_setReg_self]
    exact State.exists_key_of_mem_keysDown hb

/-- Settles O49: the read writes one register, each of the two writes one timer. -/
theorem timerAccess : Obligations.TimerAccess :=
  fun x s =>
    ⟨complete_setReg_advance s x (· = s.dt) rfl,
      ⟨_, rfl, rfl, rfl, (onlyChanges_dt s (s.reg x)).apply .advance⟩,
      _, rfl, rfl, rfl, (onlyChanges_st s (s.reg x)).apply .advance⟩

end Sys2Proof.Machine

/-! ### The fault table, the stack faults and the tick (60_exceptions.md R152 to R155, R166) -/

namespace Sys2Proof.Machine

theorem exists_next_of_complete (s : State) (r : Transaction) : ∃ t, complete s r = .next t := by
  rcases r with f | ⟨t, d⟩
  · exact ⟨_, complete_error s f⟩
  · exact ⟨_, complete_ok s t d⟩

/-- No instruction ends the run by itself: all but the key wait end in `complete`, and the key wait may hold. -/
theorem exists_next_of_exec (i : Instr) (s : State) : ∃ t, exec i s = .next t := by
  cases i
  case ldVxKey x =>
    rcases exec_ldKey_cases x s with ⟨-, e⟩ | ⟨_, _, -, e⟩
    · exact ⟨_, e⟩
    · exact ⟨_, e⟩
  case ret | callNnn | drwVxVyN | ldBVx | ldMemVx | ldVxMem => exact exists_next_of_complete s _
  all_goals exact ⟨_, rfl⟩

/-- From a clear latch, an instruction leaves latched what its row of R155 gives. -/
theorem exec_fault_of_clear {i : Instr} {s t : State} (hs : s.fault = none) (h : exec i s = .next t) :
    t.fault = faultIn s i := by
  rw [exec_fault h, hs, Option.or_none]

theorem State.coreFault_of_fetch_error {s : State} {f : Fault} (h : s.fetch = .error f) :
    s.coreFault = some f := by
  rcases s.fetch_cases with ⟨-, e⟩ | ⟨hout, e⟩ <;> cases e.symm.trans h
  exact if_pos (Nat.le_of_lt_succ hout)

/-- Where the fetch answers a word, the fault is that of decoding it or of the instruction it is (R159). -/
theorem State.coreFault_of_fetch_ok {s : State} {w : Word} (h : s.fetch = .ok w) :
    (∀ e, decodeWord w = .error e → s.coreFault = some (.unknownOpcode w)) ∧
      ∀ i, decodeWord w = .ok i → s.coreFault = faultIn s i := by
  rcases s.fetch_cases with ⟨hin, e⟩ | ⟨-, e⟩ <;> cases e.symm.trans h
  have hword : assembleWord (s.byteAt s.pc.toNat) (s.byteAt (s.pc.toNat + 1)) =
    s.byteAt s.pc.toNat ++ s.byteAt (s.pc.toNat + 1) := rfl
  have hpc : ¬ Config.memSize ≤ s.pc.toNat + 1 := Nat.not_le.2 hin
  refine ⟨fun e hd => ?_, fun i hd => ?_⟩ <;> simp only [State.coreFault, if_neg hpc, hword, hd]

/-- The step of a running core answers a next state with the fault of R155 latched. -/
theorem coreStep_fault {s : State} (hs : s.fault = none) :
    ∃ t, coreStep s = .next t ∧ t.fault = s.coreFault := by
  rcases coreStep_cases s with
    ⟨f, hf, -⟩ | ⟨-, ⟨f, hw, e⟩ | ⟨w, err, hw, herr, e⟩ | ⟨w, i, hw, hi, e⟩⟩
  · cases hs.symm.trans hf
  · exact ⟨_, e, (State.coreFault_of_fetch_error hw).symm⟩
  · exact ⟨_, e, ((State.coreFault_of_fetch_ok hw).1 err herr).symm⟩
  · obtain ⟨t, ht⟩ := exists_next_of_exec i s
    exact ⟨t, e.trans ht, (exec_fault_of_clear hs ht).trans ((State.coreFault_of_fetch_ok hw).2 i hi).symm⟩

/-- Settles O12: by the fault of the core's step, which does not see the schedule, and that of the instruction. -/
theorem faultTable : Obligations.FaultTable := by
  refine ⟨fun s hs ht => ?_, fun i s hs => ?_⟩
  · rw [step_eq_coreStep ht]
    exact coreStep_fault (s := s.popTurn) hs
  · obtain ⟨t, ht⟩ := exists_next_of_exec i s
    exact ⟨t, ht, exec_fault_of_clear hs ht⟩

theorem accessFault_eq_outOfRange {base count : Nat} {f : Fault} (h : accessFault base count = some f) :
    f = .outOfRangeMemoryAccess (max base Config.memSize) := by
  unfold accessFault at h
  split at h <;> cases h
  rfl

/-- In the table of R155 the row of `CALL` alone gives the overflow (R152). -/
theorem faultIn_eq_stackOverflow_iff (s : State) (i : Instr) :
    faultIn s i = some .stackOverflow ↔ (∃ nnn, i = .callNnn nnn) ∧ s.sp.val = 16 := by
  cases i
  case drwVxVyN | ldBVx | ldMemVx | ldVxMem =>
    exact ⟨fun h => (nomatch accessFault_eq_outOfRange h), by simp⟩
  all_goals simp [faultIn]

/-- In the table of R155 the row of `RET` alone gives the underflow (R153). -/
theorem faultIn_eq_stackUnderflow_iff (s : State) (i : Instr) :
    faultIn s i = some .stackUnderflow ↔ i = .ret ∧ s.sp.val = 0 := by
  cases i
  case drwVxVyN | ldBVx | ldMemVx | ldVxMem =>
    exact ⟨fun h => (nomatch accessFault_eq_outOfRange h), by simp⟩
  all_goals simp [faultIn]

/-- Settles O23: by the rows of the fault table; a latched fault is what the core's next turn answers. -/
theorem stackFaultsAtTheBounds : Obligations.StackFaultsAtTheBounds := by
  intro i s t hs h
  rw [exec_fault_of_clear hs h]
  refine ⟨faultIn_eq_stackOverflow_iff s i, faultIn_eq_stackUnderflow_iff s i, fun f _ hf => ?_⟩
  exact (latchedFaultIsForEver t f ((exec_fault_of_clear hs h).trans hf)).1

/-- Settles O50: the tick looks at neither the latch nor the instruction at `PC`, and truncated subtraction
stops at 0. -/
theorem tickStopsAtZero : Obligations.TickStopsAtZero := by
  intro s ht
  rcases step_cases s with ⟨ht', -⟩ | ⟨-, e⟩ | ⟨down, ht', -⟩
  · cases ht.symm.trans ht'
  · exact ⟨_, e, tickTimer_toNat s.dt, tickTimer_toNat s.st,
      ((onlyChanges_popTurn s).trans (onlyChanges_tick _)).mono (by simp)⟩
  · cases ht.symm.trans ht'

end Sys2Proof.Machine

/-! ### The loader refuses an image that does not fit (70_reset_and_hazards.md R178) -/

namespace Sys2Proof.Machine

/-- The room from `ENTRY` to the end of memory is 4096 - 512 bytes. -/
theorem imageFits_iff (image : List Byte) : imageFits image = true ↔ image.length ≤ 3584 :=
  decide_eq_true_iff

theorem State.load_of_not_imageFits (s : State) {image : List Byte} (h : ¬ imageFits image = true) :
    s.load image = .refused (.imageTooLong image.length) :=
  if_neg h

/-- Settles O57: an image longer than the room above `ENTRY` does not fit, whatever the state. -/
theorem longImageIsRefused : Obligations.LongImageIsRefused := by
  intro s image hlong
  have hfit : ¬ imageFits image = true := fun h => Nat.not_le.2 hlong ((imageFits_iff image).1 h)
  exact s.load_of_not_imageFits hfit

end Sys2Proof.Machine
